-- ==== Sys2Proof/Word.lean ====
section
/-! DEFINITION. The machine's words: an input byte, a 16-bit field, a command word (00_scope R10, 30_encoding R45). -/

namespace Sys2Proof

/-- `u8`: an input byte or a buffer byte (R10). -/
abbrev Byte := BitVec 8

/-- `u16`: a length, a checksum, the register `rem` (R10). -/
abbrev Half := BitVec 16

/-- A `CMD` word (R45, R46). -/
abbrev Word := BitVec 32

end Sys2Proof
end

