-- ==== Sys2Proof/Machine/Operands.lean ====
section
/-! DEFINITION. Operand forms and the values assembled from bytes: the buffer offset of `READ_BUF` (30_encoding R47), the
little-endian length and checksum (R48, 20_memory R32), the bounds check (R65), the magic bytes (R53). -/

namespace Sys2Proof.Machine

/-- The first magic byte `'B'` (R53). -/
abbrev magicB : Byte := 0x42#8

/-- The second magic byte `'R'` (R53). -/
abbrev magicR : Byte := 0x52#8

/-- The buffer offset of `READ_BUF`: the operand, zero-extended, no scaling (R47). -/
def addrOperand (addr : BitVec 24) : Nat := addr.toNat

/-- Two bytes as a 16-bit little-endian value (R32, R48). -/
def leHalf (lo hi : Byte) : Half := lo.setWidth 16 ||| (hi.setWidth 16 <<< 8)

/-- The length after its low byte: the high byte is cleared (R64). -/
def lengthLow (b : Byte) : Half := b.setWidth 16

/-- The length after its high byte: `(zext16(b) << 8) | rem[7:0]` (R65). -/
def lengthHigh (rem : Half) (b : Byte) : Half := (b.setWidth 16 <<< 8) ||| (rem.setWidth 8).setWidth 16

/-- The framing overhead: 8 header and id bytes and 2 checksum bytes (R6). -/
abbrev overhead : Nat := 10

/-- The bounds check `len ≤ C − 10` in exact natural numbers, inclusive (R48, R65). -/
def lengthFits (capacity : Nat) (len : Half) : Bool := decide (len.toNat + overhead ≤ capacity)

end Sys2Proof.Machine
end

