-- ==== Sys2Proof/Config.lean ====
section
/-! DEFINITION. The construction parameters `C`, `CKSUM`, `CNT_W`, `BUF_INIT` (00_scope R6 to R9, 10_state R26). -/

namespace Sys2Proof

/-- Which function the parameter `CKSUM` is (R9, D8, D19; log entry 8). -/
inductive Cksum where
  /-- The Message collaborator's own: left open, nothing is known of it but that it is total. -/
  | collaborator
  /-- The byte sum modulo 2^16 with which 95_test_vectors.md instantiates `CKSUM` (D19). -/
  | sum16
  deriving DecidableEq, Repr

/-- The parameters one block is constructed with (R103). No command changes them (R23). -/
structure Config where
  /-- `C`, the capacity of the message buffer (R6, R7). -/
  capacity : Nat
  /-- `CNT_W`, the width of `parsed` and `errors` (R8). -/
  cntW : Nat
  /-- `CKSUM` (R9). -/
  cksum : Cksum
  /-- `BUF_INIT`, the buffer's bytes at construction from offset 0 (R26); past the list's end, zeros. -/
  bufInit : List Byte
  deriving DecidableEq, Repr

/-- The collaborator's checksum function: a FREE function, no property beyond totality (R9, U1; log entry 8). -/
opaque Config.collaboratorCksum : List Byte → Half

/-- The parameters of `State.reset`. DESIGN CHOICE (log entries 5 to 8): the spec leaves all four open; no statement rests on these. -/
def Config.atReset : Config where
  capacity := 16
  cntW := 32
  cksum := .collaborator
  bufInit := []

end Sys2Proof
end

