-- ==== Sys2Proof/Syntax.lean ====
section
/-! DEFINITION. `ParseState` (30_encoding R52) and the rows of spec/opcode_table.json as one inductive. -/

namespace Sys2Proof

/-- The source's enumeration, in its order (R52). `newMessage` and `error` are terminal reports only (R16). -/
inductive ParseState where
  | newMessage
  | waitStart
  | waitHeader
  | waitLengthL
  | waitLengthH
  | waitMsgIdL
  | waitMsgIdH
  | waitSrcId
  | waitDstId
  | waitPayload
  | waitChecksumL
  | waitChecksumH
  | error
  deriving DecidableEq, Repr

/-- One constructor per row of spec/opcode_table.json: the five commands (R49), and the eleven arms of `PARSE_BYTE`,
which the table lists as rows selected by the command word together with `st` (R49, R59; log entry 10). -/
inductive Instr where
  /-- `PARSE_BYTE b` (R59). -/
  | parseByte (b : Byte)
  /-- `RESET` (R58). -/
  | reset
  /-- `READ_BUF addr` (R80). -/
  | readBuf (addr : BitVec 24)
  /-- `READ_PARSED` (R81). -/
  | readParsed
  /-- `READ_ERRORS` (R82). -/
  | readErrors
  /-- `PARSE_BYTE b` in `WAIT_START` (R62). -/
  | parseByteWaitStart (b : Byte)
  /-- `PARSE_BYTE b` in `WAIT_HEADER` (R63). -/
  | parseByteWaitHeader (b : Byte)
  /-- `PARSE_BYTE b` in `WAIT_LENGTH_L` (R64). -/
  | parseByteWaitLengthL (b : Byte)
  /-- `PARSE_BYTE b` in `WAIT_LENGTH_H` (R65). -/
  | parseByteWaitLengthH (b : Byte)
  /-- `PARSE_BYTE b` in `WAIT_MSG_ID_L` (R66). -/
  | parseByteWaitMsgIdL (b : Byte)
  /-- `PARSE_BYTE b` in `WAIT_MSG_ID_H` (R67). -/
  | parseByteWaitMsgIdH (b : Byte)
  /-- `PARSE_BYTE b` in `WAIT_SRC_ID` (R68). -/
  | parseByteWaitSrcId (b : Byte)
  /-- `PARSE_BYTE b` in `WAIT_DST_ID` (R69). -/
  | parseByteWaitDstId (b : Byte)
  /-- `PARSE_BYTE b` in `WAIT_PAYLOAD` (R70). -/
  | parseByteWaitPayload (b : Byte)
  /-- `PARSE_BYTE b` in `WAIT_CHECKSUM_L` (R71). -/
  | parseByteWaitChecksumL (b : Byte)
  /-- `PARSE_BYTE b` in `WAIT_CHECKSUM_H` (R72). -/
  | parseByteWaitChecksumH (b : Byte)
  deriving DecidableEq, Repr

end Sys2Proof
end

