-- ==== Sys2Proof/WellFormed.lean ====
section
/-! DEFINITION. When a row of the opcode table is an instruction in a given state of the framer (30_encoding R49: a command row
always; an arm row only with the `st` code it needs). Operand widths are in the types of `Instr`. -/

namespace Sys2Proof

/-- The running states: the eleven values `st` can hold (10_state R16). -/
def ParseState.running : ParseState → Bool
  | .newMessage | .error => false
  | .waitStart | .waitHeader | .waitLengthL | .waitLengthH | .waitMsgIdL | .waitMsgIdH | .waitSrcId | .waitDstId
  | .waitPayload | .waitChecksumL | .waitChecksumH => true

/-- The state an arm row needs (the table's "st"); `none` for the five command rows. -/
def Instr.armState : Instr → Option ParseState
  | .parseByte _ => none
  | .reset => none
  | .readBuf _ => none
  | .readParsed => none
  | .readErrors => none
  | .parseByteWaitStart _ => some .waitStart
  | .parseByteWaitHeader _ => some .waitHeader
  | .parseByteWaitLengthL _ => some .waitLengthL
  | .parseByteWaitLengthH _ => some .waitLengthH
  | .parseByteWaitMsgIdL _ => some .waitMsgIdL
  | .parseByteWaitMsgIdH _ => some .waitMsgIdH
  | .parseByteWaitSrcId _ => some .waitSrcId
  | .parseByteWaitDstId _ => some .waitDstId
  | .parseByteWaitPayload _ => some .waitPayload
  | .parseByteWaitChecksumL _ => some .waitChecksumL
  | .parseByteWaitChecksumH _ => some .waitChecksumH

/-- The row is an instruction while the framer is in `p`: a command row always, an arm row in its own state only. -/
def Instr.wellFormed (p : ParseState) (i : Instr) : Bool :=
  match i.armState with
  | none => true
  | some q => decide (q = p)

end Sys2Proof
end

