-- ==== Sys2Proof/Decode.lean ====
section
/-! DEFINITION. The encodings of 30_encoding: `PS` codes (R52), the `CMD` word's fields (R46, R47), the decoder (R49, R50), the
selection of an arm by `st` (R59), and the encoder. -/

namespace Sys2Proof

/-- The `PS` code of a `ParseState`: its position from 0 (R52). -/
def ParseState.code : ParseState → BitVec 4
  | .newMessage => 0#4
  | .waitStart => 1#4
  | .waitHeader => 2#4
  | .waitLengthL => 3#4
  | .waitLengthH => 4#4
  | .waitMsgIdL => 5#4
  | .waitMsgIdH => 6#4
  | .waitSrcId => 7#4
  | .waitDstId => 8#4
  | .waitPayload => 9#4
  | .waitChecksumL => 10#4
  | .waitChecksumH => 11#4
  | .error => 12#4

/-- The `ParseState` of a code; 13 to 15 name none (R52). -/
def ParseState.ofCode (c : BitVec 4) : Option ParseState :=
  match c.toNat with
  | 0 => some .newMessage
  | 1 => some .waitStart
  | 2 => some .waitHeader
  | 3 => some .waitLengthL
  | 4 => some .waitLengthH
  | 5 => some .waitMsgIdL
  | 6 => some .waitMsgIdH
  | 7 => some .waitSrcId
  | 8 => some .waitDstId
  | 9 => some .waitPayload
  | 10 => some .waitChecksumL
  | 11 => some .waitChecksumH
  | 12 => some .error
  | _ => none

/-- `op`, bits 31..28 (R46). -/
def cmdOp (w : Word) : BitVec 4 := w.extractLsb' 28 4

/-- `rsv`, bits 27..24 (R46). -/
def cmdRsv (w : Word) : BitVec 4 := w.extractLsb' 24 4

/-- `operand`, bits 23..0 (R46); the whole of it is the address of `READ_BUF` (R47). -/
def cmdOperand (w : Word) : BitVec 24 := w.extractLsb' 0 24

/-- `operand[7:0]`, the input byte of `PARSE_BYTE` (R47). -/
def cmdByte (w : Word) : Byte := w.extractLsb' 0 8

/-- `operand[23:8]`, which `PARSE_BYTE` needs 0 (R47). -/
def cmdByteZeros (w : Word) : BitVec 16 := w.extractLsb' 8 16

/-- Why a word is reserved, in the order R50 lists the reasons. -/
inductive Reserved where
  /-- `op` is 0 or 6 to 15. -/
  | op
  /-- `rsv` is not 0. -/
  | rsv
  /-- A bit of `operand` that must be 0 is not. -/
  | operand
  deriving DecidableEq, Repr

/-- Answers `i` when the operand bits that must be 0 are 0 (R47, R50). -/
def requireZero (zeros : Bool) (i : Instr) : Except Reserved Instr :=
  if zeros then .ok i else .error .operand

/-- The command of a `CMD` word, or why the word is reserved (R46, R47, R49, R50). A `PARSE_BYTE` word is read as the
command row: which arm it takes depends on `st` (R59). -/
def decode (w : Word) : Except Reserved Instr :=
  let checkRsv (r : Except Reserved Instr) : Except Reserved Instr := if cmdRsv w = 0#4 then r else .error .rsv
  match (cmdOp w).toNat with
  | 1 => checkRsv (requireZero (cmdByteZeros w == 0#16) (.parseByte (cmdByte w)))
  | 2 => checkRsv (requireZero (cmdOperand w == 0#24) .reset)
  | 3 => checkRsv (.ok (.readBuf (cmdOperand w)))
  | 4 => checkRsv (requireZero (cmdOperand w == 0#24) .readParsed)
  | 5 => checkRsv (requireZero (cmdOperand w == 0#24) .readErrors)
  | _ => .error .op

/-- The arm row of a running state (R59); a terminal-report value has none. -/
def armOf (p : ParseState) (b : Byte) : Option Instr :=
  match p with
  | .newMessage => none
  | .waitStart => some (.parseByteWaitStart b)
  | .waitHeader => some (.parseByteWaitHeader b)
  | .waitLengthL => some (.parseByteWaitLengthL b)
  | .waitLengthH => some (.parseByteWaitLengthH b)
  | .waitMsgIdL => some (.parseByteWaitMsgIdL b)
  | .waitMsgIdH => some (.parseByteWaitMsgIdH b)
  | .waitSrcId => some (.parseByteWaitSrcId b)
  | .waitDstId => some (.parseByteWaitDstId b)
  | .waitPayload => some (.parseByteWaitPayload b)
  | .waitChecksumL => some (.parseByteWaitChecksumL b)
  | .waitChecksumH => some (.parseByteWaitChecksumH b)
  | .error => none

/-- The most specific table row a word selects while `st` holds the code `c`: the arm row for a `PARSE_BYTE` word in a running
state, else the command row (R49, R59). -/
def decodeAt (c : BitVec 4) (w : Word) : Except Reserved Instr :=
  match decode w with
  | .ok (.parseByte b) => .ok (((ParseState.ofCode c).bind fun p => armOf p b).getD (.parseByte b))
  | r => r

/-- A `CMD` word from its opcode and operand, `rsv` 0 (R46). -/
def cmdWord (op : BitVec 4) (operand : BitVec 24) : Word := op ++ 0#4 ++ operand

/-- The `CMD` word of an instruction (R46). All twelve `PARSE_BYTE` rows share one encoding; `st` tells the arms apart. -/
def encode : Instr → Word
  | .parseByte b => cmdWord 1#4 (b.setWidth 24)
  | .reset => cmdWord 2#4 0#24
  | .readBuf addr => cmdWord 3#4 addr
  | .readParsed => cmdWord 4#4 0#24
  | .readErrors => cmdWord 5#4 0#24
  | .parseByteWaitStart b => cmdWord 1#4 (b.setWidth 24)
  | .parseByteWaitHeader b => cmdWord 1#4 (b.setWidth 24)
  | .parseByteWaitLengthL b => cmdWord 1#4 (b.setWidth 24)
  | .parseByteWaitLengthH b => cmdWord 1#4 (b.setWidth 24)
  | .parseByteWaitMsgIdL b => cmdWord 1#4 (b.setWidth 24)
  | .parseByteWaitMsgIdH b => cmdWord 1#4 (b.setWidth 24)
  | .parseByteWaitSrcId b => cmdWord 1#4 (b.setWidth 24)
  | .parseByteWaitDstId b => cmdWord 1#4 (b.setWidth 24)
  | .parseByteWaitPayload b => cmdWord 1#4 (b.setWidth 24)
  | .parseByteWaitChecksumL b => cmdWord 1#4 (b.setWidth 24)
  | .parseByteWaitChecksumH b => cmdWord 1#4 (b.setWidth 24)

/-- The `mask` column of R49 for the row. -/
def Instr.rowMask : Instr → Word
  | .reset | .readParsed | .readErrors => 0xFFFFFFFF#32
  | .readBuf _ => 0xFF000000#32
  | .parseByte _ | .parseByteWaitStart _ | .parseByteWaitHeader _ | .parseByteWaitLengthL _ | .parseByteWaitLengthH _
  | .parseByteWaitMsgIdL _ | .parseByteWaitMsgIdH _ | .parseByteWaitSrcId _ | .parseByteWaitDstId _ | .parseByteWaitPayload _
  | .parseByteWaitChecksumL _ | .parseByteWaitChecksumH _ => 0xFFFFFF00#32

/-- The `match` column of R49 for the row. -/
def Instr.rowMatch : Instr → Word
  | .reset => 0x20000000#32
  | .readBuf _ => 0x30000000#32
  | .readParsed => 0x40000000#32
  | .readErrors => 0x50000000#32
  | .parseByte _ | .parseByteWaitStart _ | .parseByteWaitHeader _ | .parseByteWaitLengthL _ | .parseByteWaitLengthH _
  | .parseByteWaitMsgIdL _ | .parseByteWaitMsgIdH _ | .parseByteWaitSrcId _ | .parseByteWaitDstId _ | .parseByteWaitPayload _
  | .parseByteWaitChecksumL _ | .parseByteWaitChecksumH _ => 0x10000000#32

/-- The `CMD` word the table's numbering gives: bits from `nbits` on are 0; nothing lies past bit 31 (R45; log entry 15). -/
def tableWord (nbits w : Nat) : Option Word :=
  let v := w % 2 ^ nbits
  if v < 2 ^ 32 then some (BitVec.ofNat 32 v) else none

/-- The instruction the decoder reads from a word numbered as the opcode table numbers it. -/
def decodeTableWord (nbits w : Nat) : Option Instr :=
  (tableWord nbits w).bind fun v => (decode v).toOption

end Sys2Proof
end

