-- ==== Sys2Proof/Machine/State.lean ====
section
/-! DEFINITION. The state of one block (10_state R15), its faults and refusals (60_exceptions R89), and the state after
construction (70_reset_and_hazards R101). -/

namespace Sys2Proof.Machine

/-- What one block holds. The first six fields are the spec's state (R15); `cfg` holds the construction parameters, which no
command writes; `pending` and `resp` are the command port's input and output (log entries 1, 2, 4). -/
structure State where
  /-- The construction parameters `C`, `CNT_W`, `CKSUM`, `BUF_INIT` (R6 to R9, R26). -/
  cfg : Config
  /-- The framer state register, as its 4-bit code (R16, R23). -/
  st : BitVec 4
  /-- The write cursor, a natural number (R17). -/
  cur : Nat
  /-- The remaining-payload counter (R18). -/
  rem : Half
  /-- The lifetime count of successful frames, below `2^CNT_W` (R21). -/
  parsed : Nat
  /-- The lifetime count of checksum failures, below `2^CNT_W` (R22). -/
  errors : Nat
  /-- The message buffer (R25): the bytes that differ from `BUF_INIT`, by offset. -/
  buf : List Host.Cell
  /-- The `CMD` words the host issues, oldest first (R40). -/
  pending : List Word
  /-- The response of the last command (R20, R51); `none` while none has been answered. No rule reads it. -/
  resp : Option Nat
  deriving DecidableEq, Repr

/-- A fault ends the run (R89). Both are unreachable from construction. -/
inductive Fault where
  /-- Raised by `memWrite` at an offset not below `C` (R30). Safe: the source forbids the write. -/
  | bufferOverrun (k : Nat)
  /-- Raised by `PARSE_BYTE` when `st` holds no running state's code (R74). Safe: no behaviour is given. -/
  | illegalState (code : BitVec 4)
  deriving DecidableEq, Repr

/-- A refusal gives the command or the configuration no meaning (R89). -/
inductive Refusal where
  /-- An instruction without a meaning in this model, raised by `exec`'s arm. Safe. -/
  | notModelled (mnemonic : String)
  /-- Raised by `step` for a word that matches no opcode row (R50). Safe. -/
  | reservedCommand (w : Word)
  /-- Raised by a buffer read at an offset not below `C` (R31, R80). Safe. -/
  | readOutOfRange (addr : Nat)
  /-- Raised by `construct` when `C < 10` or `C > 2^24` (R7). Safe. -/
  | badCapacity (c : Nat)
  /-- Raised by `construct` when `CNT_W` is not at least 1 (R8; log entry 14). Safe. -/
  | badCounterWidth (n : Nat)
  /-- Raised by the meaning of an arm row when `st` is not the code the row needs (R49; log entry 10). Safe. -/
  | armNotSelected (code : BitVec 4)
  deriving DecidableEq, Repr

/-- The state right after construction with the parameters `cfg` (R101); nothing issued, nothing answered. -/
def State.powerOn (cfg : Config) : State where
  cfg := cfg
  st := ParseState.waitStart.code
  cur := 0
  rem := 0#16
  parsed := 0
  errors := 0
  buf := []
  pending := []
  resp := none

/-- The machine right after reset: constructed (R101) with the parameters of log entries 5 to 8. -/
def State.reset : State := State.powerOn Config.atReset

end Sys2Proof.Machine
end

