-- ==== Sys2Proof/Machine/Flags.lean ====
section
/-! DEFINITION. The block has no flags (10_state R20); in their place it has the response of a command (R51, R73) and the two
lifetime counters (R21, R22). One setter per field of the state, the conditions that choose the next state, and the ends of the arms. -/

namespace Sys2Proof.Machine

/-- `st <- p` (00_scope R11). -/
def State.setSt (p : ParseState) (s : State) : State := { s with st := p.code }

/-- `cur <- n`. -/
def State.setCur (n : Nat) (s : State) : State := { s with cur := n }

/-- `rem <- v`. -/
def State.setRem (v : Half) (s : State) : State := { s with rem := v }

/-- `parsed <- n`. -/
def State.setParsed (n : Nat) (s : State) : State := { s with parsed := n }

/-- `errors <- n`. -/
def State.setErrors (n : Nat) (s : State) : State := { s with errors := n }

/-- The buffer's cells after a write. -/
def State.setBuf (m : List Host.Cell) (s : State) : State := { s with buf := m }

/-- The commands still to be taken. -/
def State.setPending (ws : List Word) (s : State) : State := { s with pending := ws }

/-- `respond(v)` (R11, R51). -/
def State.respond (v : Nat) (s : State) : State := { s with resp := some v }

/-- A lifetime counter's next value: `+1 mod 2^CNT_W` (R8). -/
def countUp (cntW n : Nat) : Nat := (n + 1) % 2 ^ cntW

/-- Where the length's high byte leads: on to the ids, or for an oversized length silently back to frame search (R65, R86). -/
def afterLength (capacity : Nat) (len : Half) : ParseState := if lengthFits capacity len then .waitMsgIdL else .waitStart

/-- Where a count of payload bytes still to come leads: the payload, or at 0 the checksum (R69, R70). -/
def afterCount (rem : Half) : ParseState := if rem = 0#16 then .waitChecksumL else .waitPayload

/-- `st <- p` and `respond(code(st))`, the end of every arm but the last (R73). -/
def State.advance (p : ParseState) (s : State) : State := (s.setSt p).respond p.code.toNat

/-- The verdict of a frame: one counter up, back to `WAIT_START`, the terminal report as the response (R72, R73). -/
def State.verdict (valid : Bool) (s : State) : State :=
  if valid then
    ((s.setParsed (countUp s.cfg.cntW s.parsed)).setSt .waitStart).respond ParseState.newMessage.code.toNat
  else
    ((s.setErrors (countUp s.cfg.cntW s.errors)).setSt .waitStart).respond ParseState.error.code.toNat

end Sys2Proof.Machine
end

