-- ==== Sys2Proof/Machine/Ops.lean ====
section
/-! DEFINITION. The named operations: the buffer's cells in canonical form, `MemWrite` and `MemRead` (20_memory R30, R31),
storing an accepted byte (R33), `VERIFY` (41_parse_byte R61), resynchronising (60_exceptions R86) and construction (R7, R101).
The block takes no exception and returns from none (60_exceptions R84, R92): its outcomes are these operations. -/

namespace Sys2Proof.Machine

/-- What a command answers. -/
abbrev Result := Host.Outcome State Fault Refusal

/-- Runs `k` on the next state; a fault or a refusal ends the command. -/
def andThen (o : Result) (k : State → Result) : Result :=
  match o with
  | .next s => k s
  | .fault f => .fault f
  | .refused r => .refused r

/-- `BUF_INIT[k]`: what an unlisted offset of the buffer reads as (10_state R26, 20_memory R39). -/
def initByte (init : List Byte) (k : Nat) : Byte := init.getD k 0#8

/-- The byte at offset `k`: the one listed, else `BUF_INIT[k]` (R39). -/
def Memory.read (init : List Byte) (m : List Host.Cell) (k : Nat) : Byte :=
  match m with
  | [] => initByte init k
  | (a, v) :: rest => if a = k then v else Memory.read init rest k

/-- Lists `v` at offset `k`, keeping the offsets in rising order. -/
def Memory.put (m : List Host.Cell) (k : Nat) (v : Byte) : List Host.Cell :=
  match m with
  | [] => [(k, v)]
  | (a, u) :: rest =>
    if k < a then (k, v) :: (a, u) :: rest
    else if k = a then (k, v) :: rest
    else (a, u) :: Memory.put rest k v

/-- Removes the entry of offset `k`. -/
def Memory.drop (m : List Host.Cell) (k : Nat) : List Host.Cell :=
  match m with
  | [] => []
  | (a, u) :: rest => if a = k then rest else (a, u) :: Memory.drop rest k

/-- Writes `v` at offset `k`; writing what an unlisted offset reads as removes the entry. -/
def Memory.write (init : List Byte) (m : List Host.Cell) (k : Nat) (v : Byte) : List Host.Cell :=
  if v = initByte init k then Memory.drop m k else Memory.put m k v

/-- Every offset is above `lo` and the offsets rise strictly. -/
def Memory.risesFrom (lo : Nat) (m : List Host.Cell) : Bool :=
  match m with
  | [] => true
  | (a, _) :: rest => decide (lo ≤ a) && Memory.risesFrom (a + 1) rest

/-- The canonical form: offsets strictly rising, no entry equal to what an unlisted offset reads as. -/
def Memory.wf (init : List Byte) (m : List Host.Cell) : Bool :=
  Memory.risesFrom 0 m && m.all fun c => c.2 != initByte init c.1

/-- `buf[k]`, without the range check. -/
def byteAt (s : State) (k : Nat) : Byte := Memory.read s.cfg.bufInit s.buf k

/-- `MemWrite(k, 1, v)`: bounds-checked (R30). -/
def memWrite (k : Nat) (v : Byte) (s : State) : Result :=
  if k < s.cfg.capacity then .next (s.setBuf (Memory.write s.cfg.bufInit s.buf k v))
  else .fault (.bufferOverrun k)

/-- `MemRead(k, 1)`: no value at or above `C` (R31). -/
def memRead (k : Nat) (s : State) : Except Refusal Byte :=
  if k < s.cfg.capacity then .ok (byteAt s k) else .error (.readOutOfRange k)

/-- `MemRead` of `n` bytes from offset `k` on, in order. -/
def memReadRange (k n : Nat) (s : State) : Except Refusal (List Byte) :=
  match n with
  | 0 => .ok []
  | n + 1 =>
    match memRead k s with
    | .error r => .error r
    | .ok b =>
      match memReadRange (k + 1) n s with
      | .error r => .error r
      | .ok bs => .ok (b :: bs)

/-- `MemWrite(cur, 1, b)` and `cur <- cur + 1`: how a byte is accepted into the frame (R29, R33). -/
def store (b : Byte) (s : State) : Result :=
  andThen (memWrite s.cur b s) fun s' => .next (s'.setCur (s'.cur + 1))

/-- `CKSUM` of a byte sequence (00_scope R9; `sum16` is D19's instantiation). -/
def checksum (c : Cksum) (bytes : List Byte) : Half :=
  match c with
  | .collaborator => Config.collaboratorCksum bytes
  | .sum16 => bytes.foldl (fun acc b => acc + b.setWidth 16) 0#16

/-- A little-endian 16-bit value read from the buffer at offset `k` (20_memory R32). -/
def memReadHalf (k : Nat) (s : State) : Except Refusal Half :=
  match memRead k s with
  | .error r => .error r
  | .ok lo =>
    match memRead (k + 1) s with
    | .error r => .error r
    | .ok hi => .ok (leHalf lo hi)

/-- `VERIFY()`: the stored checksum against `CKSUM` of the `8 + L` bytes before it (R61). Its reads go through `MemRead`
(log entry 11); it changes nothing. -/
def verify (s : State) : Except Refusal Bool :=
  match memReadHalf 2 s with
  | .error r => .error r
  | .ok len =>
    match memReadHalf (8 + len.toNat) s with
    | .error r => .error r
    | .ok stored =>
      match memReadRange 0 (8 + len.toNat) s with
      | .error r => .error r
      | .ok body => .ok (stored == checksum s.cfg.cksum body)

/-- Runs an arm's body in the state whose row it is; in another the row is not selected (30_encoding R49; log entry 10). -/
def inArm (p : ParseState) (s : State) (body : Result) : Result :=
  if s.st = p.code then body else .refused (.armNotSelected s.st)

/-- Back to frame search from a magic mismatch, silently and uncounted; `cur` and the bytes stored stay (60_exceptions R86). -/
def resync (s : State) : State := s.advance .waitStart

/-- A configuration the block can be constructed with (R7, R8). -/
def configValid (c : Config) : Bool :=
  decide (overhead ≤ c.capacity) && decide (c.capacity ≤ 2 ^ 24) && decide (1 ≤ c.cntW)

/-- Construction, the power-on reset: refuses a bad capacity (R7, R89, R101). -/
def construct (c : Config) : Result :=
  if c.capacity < overhead ∨ 2 ^ 24 < c.capacity then .refused (.badCapacity c.capacity)
  else if c.cntW < 1 then .refused (.badCounterWidth c.cntW)
  else .next (State.powerOn c)

end Sys2Proof.Machine
end

