-- ==== Sys2Proof/Machine/Control.lean ====
section
/-! DEFINITION. `RESET` (40_reset R58) and the readout commands `READ_BUF`, `READ_PARSED`, `READ_ERRORS` (42_readout R80 to R82). -/

namespace Sys2Proof.Machine

/-- `RESET`: abort any partial frame; the counters, `rem` and the buffer stay (R58). -/
def execReset (s : State) : Result :=
  .next (((s.setSt .waitStart).setCur 0).respond 0)

/-- `READ_BUF addr`: the byte as it stands; refused at or above `C` (R80). -/
def execReadBuf (addr : BitVec 24) (s : State) : Result :=
  match memRead (addrOperand addr) s with
  | .error r => .refused r
  | .ok v => .next (s.respond v.toNat)

/-- `READ_PARSED`: the success counter (R81). -/
def execReadParsed (s : State) : Result := .next (s.respond s.parsed)

/-- `READ_ERRORS`: the checksum-failure counter (R82). -/
def execReadErrors (s : State) : Result := .next (s.respond s.errors)

end Sys2Proof.Machine
end

