-- ==== Sys2Proof/Machine/ParseByte.lean ====
section
/-! DEFINITION. `PARSE_BYTE` (41_parse_byte R59) and its eleven arms (R62 to R72), each as its pseudocode reads. -/

namespace Sys2Proof.Machine

/-- `PARSE_BYTE b` in `WAIT_START`: search for magic byte 1 (R62). -/
def execParseByteWaitStart (b : Byte) (s : State) : Result :=
  inArm .waitStart s <|
    if b = magicB then
      andThen (store b (s.setCur 0)) fun s' => .next (s'.advance .waitHeader)
    else
      .next ((s.setCur 0).advance .waitStart)

/-- `PARSE_BYTE b` in `WAIT_HEADER`: match magic byte 2; a mismatch discards the byte and resynchronises (R63). -/
def execParseByteWaitHeader (b : Byte) (s : State) : Result :=
  inArm .waitHeader s <|
    if b = magicR then
      andThen (store b s) fun s' => .next (s'.advance .waitLengthL)
    else
      .next (resync s)

/-- `PARSE_BYTE b` in `WAIT_LENGTH_L`: payload length, low byte (R64). -/
def execParseByteWaitLengthL (b : Byte) (s : State) : Result :=
  inArm .waitLengthL s <|
    andThen (store b s) fun s' => .next ((s'.setRem (lengthLow b)).advance .waitLengthH)

/-- `PARSE_BYTE b` in `WAIT_LENGTH_H`: payload length, high byte, and the bounds check: an oversized length resynchronises (R65). -/
def execParseByteWaitLengthH (b : Byte) (s : State) : Result :=
  inArm .waitLengthH s <|
    andThen (store b s) fun s' =>
      .next ((s'.setRem (lengthHigh s'.rem b)).advance (afterLength s'.cfg.capacity (lengthHigh s'.rem b)))

/-- `PARSE_BYTE b` in `WAIT_MSG_ID_L`: message id, low byte (R66). -/
def execParseByteWaitMsgIdL (b : Byte) (s : State) : Result :=
  inArm .waitMsgIdL s <|
    andThen (store b s) fun s' => .next (s'.advance .waitMsgIdH)

/-- `PARSE_BYTE b` in `WAIT_MSG_ID_H`: message id, high byte (R67). -/
def execParseByteWaitMsgIdH (b : Byte) (s : State) : Result :=
  inArm .waitMsgIdH s <|
    andThen (store b s) fun s' => .next (s'.advance .waitSrcId)

/-- `PARSE_BYTE b` in `WAIT_SRC_ID`: source id (R68). -/
def execParseByteWaitSrcId (b : Byte) (s : State) : Result :=
  inArm .waitSrcId s <|
    andThen (store b s) fun s' => .next (s'.advance .waitDstId)

/-- `PARSE_BYTE b` in `WAIT_DST_ID`: destination id, and the zero-length skip (R69). -/
def execParseByteWaitDstId (b : Byte) (s : State) : Result :=
  inArm .waitDstId s <|
    andThen (store b s) fun s' => .next (s'.advance (afterCount s'.rem))

/-- `PARSE_BYTE b` in `WAIT_PAYLOAD`: one payload byte; on the last, on to the checksum (R70; log entry 12 on `rem` 0). -/
def execParseByteWaitPayload (b : Byte) (s : State) : Result :=
  inArm .waitPayload s <|
    andThen (store b s) fun s' =>
      .next ((s'.setRem (s'.rem - 1#16)).advance (afterCount (s'.rem - 1#16)))

/-- `PARSE_BYTE b` in `WAIT_CHECKSUM_L`: checksum, low byte (R71). -/
def execParseByteWaitChecksumL (b : Byte) (s : State) : Result :=
  inArm .waitChecksumL s <|
    andThen (store b s) fun s' => .next (s'.advance .waitChecksumH)

/-- `PARSE_BYTE b` in `WAIT_CHECKSUM_H`: checksum, high byte; verify, count and report (R72). -/
def execParseByteWaitChecksumH (b : Byte) (s : State) : Result :=
  inArm .waitChecksumH s <|
    andThen (store b s) fun s' =>
      match verify s' with
      | .error r => .refused r
      | .ok valid => .next (s'.verdict valid)

/-- `PARSE_BYTE b`: one arm by the value of `st` (R59); no running state, a fault (R74). -/
def execParseByte (b : Byte) (s : State) : Result :=
  match ParseState.ofCode s.st with
  | some .waitStart => execParseByteWaitStart b s
  | some .waitHeader => execParseByteWaitHeader b s
  | some .waitLengthL => execParseByteWaitLengthL b s
  | some .waitLengthH => execParseByteWaitLengthH b s
  | some .waitMsgIdL => execParseByteWaitMsgIdL b s
  | some .waitMsgIdH => execParseByteWaitMsgIdH b s
  | some .waitSrcId => execParseByteWaitSrcId b s
  | some .waitDstId => execParseByteWaitDstId b s
  | some .waitPayload => execParseByteWaitPayload b s
  | some .waitChecksumL => execParseByteWaitChecksumL b s
  | some .waitChecksumH => execParseByteWaitChecksumH b s
  | some .newMessage => .fault (.illegalState s.st)
  | some .error => .fault (.illegalState s.st)
  | none => .fault (.illegalState s.st)

end Sys2Proof.Machine
end

