-- ==== Sys2Proof/Machine/Dispatch.lean ====
section
/-! DEFINITION. `exec`: one arm per row of the opcode table, each one call of the row's meaning. -/

namespace Sys2Proof.Machine

def exec (i : Instr) (s : State) : Host.Outcome State Fault Refusal :=
  match i with
  | .parseByte b => Sys2Proof.Machine.execParseByte b s
  | .reset => Sys2Proof.Machine.execReset s
  | .readBuf addr => Sys2Proof.Machine.execReadBuf addr s
  | .readParsed => Sys2Proof.Machine.execReadParsed s
  | .readErrors => Sys2Proof.Machine.execReadErrors s
  | .parseByteWaitStart b => Sys2Proof.Machine.execParseByteWaitStart b s
  | .parseByteWaitHeader b => Sys2Proof.Machine.execParseByteWaitHeader b s
  | .parseByteWaitLengthL b => Sys2Proof.Machine.execParseByteWaitLengthL b s
  | .parseByteWaitLengthH b => Sys2Proof.Machine.execParseByteWaitLengthH b s
  | .parseByteWaitMsgIdL b => Sys2Proof.Machine.execParseByteWaitMsgIdL b s
  | .parseByteWaitMsgIdH b => Sys2Proof.Machine.execParseByteWaitMsgIdH b s
  | .parseByteWaitSrcId b => Sys2Proof.Machine.execParseByteWaitSrcId b s
  | .parseByteWaitDstId b => Sys2Proof.Machine.execParseByteWaitDstId b s
  | .parseByteWaitPayload b => Sys2Proof.Machine.execParseByteWaitPayload b s
  | .parseByteWaitChecksumL b => Sys2Proof.Machine.execParseByteWaitChecksumL b s
  | .parseByteWaitChecksumH b => Sys2Proof.Machine.execParseByteWaitChecksumH b s

end Sys2Proof.Machine
end

