-- ==== Sys2Proof/Machine/Step.lean ====
section
/-! DEFINITION. One step takes the oldest command the host has issued (20_memory R36, R40): decode first (60_exceptions R90),
then the command's meaning. With no command the block holds its state (R100). -/

namespace Sys2Proof.Machine

/-- One step of the block. -/
def step (s : State) : Host.Outcome State Fault Refusal :=
  match s.pending with
  | [] => .next s
  | w :: ws =>
    match Sys2Proof.decode w with
    | .error _ => .refused (.reservedCommand w)
    | .ok i => exec i (s.setPending ws)

/-- The host issues one more command, after those already issued (R40, R112). -/
def State.issue (w : Word) (s : State) : State := s.setPending (s.pending ++ [w])

/-- The table's word issued as the very next command (log entry 15). -/
def State.withFetchWord (s : State) (nbits w : Nat) : State :=
  match tableWord nbits w with
  | none => s
  | some v => s.setPending (v :: s.pending)

end Sys2Proof.Machine
end

