-- ==== Sys2Proof/Machine/Asm.lean ====
section
/-! DEFINITION. The wire frame as a byte sequence (30_encoding R54), the pseudo-commands and the text syntax of command sequences
(R56, R57). The framer never reads this text: it is how a host's command words are written down. -/

namespace Sys2Proof.Machine

/-- A 16-bit field on the wire: low byte first (R54). -/
def leBytes (v : Half) : List Byte := [v.setWidth 8, (v >>> 8).setWidth 8]

/-- A frame without its checksum: magic, length, ids, payload (R54). -/
def frameBody (len id : Half) (src dst : Byte) (payload : List Byte) : List Byte :=
  [magicB, magicR] ++ leBytes len ++ leBytes id ++ [src, dst] ++ payload

/-- The bytes `framex` feeds (R57): the declared length need not be the payload's. -/
def framexBytes (len id : Half) (src dst : Byte) (payload : List Byte) (ck : Half) : List Byte :=
  frameBody len id src dst payload ++ leBytes ck

/-- The bytes `frame` feeds (R57): the payload's own length and the correct checksum. DESIGN CHOICE (safe, log entry 19): `len` has
16 bits and R57 gives no expansion for 65536 or more payload bytes; the count is then taken modulo 2^16. -/
def frameBytes (c : Cksum) (id : Half) (src dst : Byte) (payload : List Byte) : List Byte :=
  let len := BitVec.ofNat 16 payload.length
  framexBytes len id src dst payload (checksum c (frameBody len id src dst payload))

/-- The `PARSE_BYTE` words that feed a byte sequence (R57). -/
def feedWords (bs : List Byte) : List Word := bs.map fun b => encode (.parseByte b)

/-- One line of a command sequence (R56, R57). -/
inductive AsmLine where
  /-- `pb <byte>` -/
  | pb (b : Byte)
  /-- `reset` -/
  | reset
  /-- `rdbuf <addr>` -/
  | rdbuf (addr : BitVec 24)
  /-- `rdparsed` -/
  | rdparsed
  /-- `rderrors` -/
  | rderrors
  /-- `feed b0, b1, ..., bn` -/
  | feed (bs : List Byte)
  /-- `framex len, id, src, dst, [p0, ..., pk], ck` -/
  | framex (len id : Half) (src dst : Byte) (payload : List Byte) (ck : Half)
  /-- `frame id, src, dst, [p0, ..., pk]` -/
  | frame (id : Half) (src dst : Byte) (payload : List Byte)
  deriving DecidableEq, Repr

/-- The `CMD` words a line assembles to (R56, R57). -/
def AsmLine.words (c : Cksum) : AsmLine → List Word
  | .pb b => [encode (.parseByte b)]
  | .reset => [encode .reset]
  | .rdbuf addr => [encode (.readBuf addr)]
  | .rdparsed => [encode .readParsed]
  | .rderrors => [encode .readErrors]
  | .feed bs => feedWords bs
  | .framex len id src dst payload ck => feedWords (framexBytes len id src dst payload ck)
  | .frame id src dst payload => feedWords (frameBytes c id src dst payload)

/-- What a line of text is cut into (log entry 17). -/
inductive AsmToken where
  /-- A name: a command or pseudo-command. -/
  | name (cs : List Char)
  /-- A number: `0x` hexadecimal, decimal, or a quoted character's code. -/
  | num (n : Nat)
  /-- `,` -/
  | comma
  /-- `[` -/
  | opening
  /-- `]` -/
  | closing
  deriving DecidableEq, Repr

/-- The value of a digit in base 16 or below. -/
def digitValue (base : Nat) (c : Char) : Option Nat :=
  let v :=
    if '0' ≤ c ∧ c ≤ '9' then c.toNat - '0'.toNat
    else if 'a' ≤ c ∧ c ≤ 'f' then c.toNat - 'a'.toNat + 10
    else if 'A' ≤ c ∧ c ≤ 'F' then c.toNat - 'A'.toNat + 10
    else base
  if v < base then some v else none

/-- Digits, most significant first, after the value `acc`. -/
def digitsValue (base acc : Nat) (cs : List Char) : Option Nat :=
  match cs with
  | [] => some acc
  | c :: rest =>
    match digitValue base c with
    | none => none
    | some v => digitsValue base (acc * base + v) rest

/-- A run of characters: a number when it starts with a digit, else a name. -/
def classify (cs : List Char) : Option AsmToken :=
  match cs with
  | [] => none
  | '0' :: 'x' :: d :: rest => (digitsValue 16 0 (d :: rest)).map .num
  | c :: rest => if '0' ≤ c ∧ c ≤ '9' then (digitsValue 10 0 (c :: rest)).map .num else some (.name (c :: rest))

/-- Ends the run of characters collected (in reverse) in `acc`, before the tokens `ts`. -/
def endRun (acc : List Char) (ts : Option (List AsmToken)) : Option (List AsmToken) :=
  match acc with
  | [] => ts
  | c :: cs =>
    match classify (c :: cs).reverse, ts with
    | some t, some ts => some (t :: ts)
    | _, _ => none

/-- A line's tokens: `;` starts a comment (R56); blanks separate; a character in single quotes is its code. -/
def tokens (acc : List Char) (cs : List Char) : Option (List AsmToken) :=
  match cs with
  | [] => endRun acc (some [])
  | '\'' :: c :: '\'' :: rest => endRun acc ((tokens [] rest).map (.num c.toNat :: ·))
  | c :: rest =>
    if c = ';' then endRun acc (some [])
    else if c = ' ' ∨ c = '\t' then endRun acc (tokens [] rest)
    else if c = ',' then endRun acc ((tokens [] rest).map (.comma :: ·))
    else if c = '[' then endRun acc ((tokens [] rest).map (.opening :: ·))
    else if c = ']' then endRun acc ((tokens [] rest).map (.closing :: ·))
    else tokens (c :: acc) rest

/-- A number of `w` bits; a larger one is no operand. -/
def asBits (w n : Nat) : Option (BitVec w) := if n < 2 ^ w then some (BitVec.ofNat w n) else none

/-- Bytes separated by commas, and the tokens after them. -/
def byteList (ts : List AsmToken) : Option (List Byte × List AsmToken) :=
  match ts with
  | .num n :: .comma :: rest =>
    match asBits 8 n, byteList rest with
    | some b, some (bs, after) => some (b :: bs, after)
    | _, _ => none
  | .num n :: rest => (asBits 8 n).map fun b => ([b], rest)
  | _ => none

/-- A payload in brackets, and the tokens after it. -/
def payloadList (ts : List AsmToken) : Option (List Byte × List AsmToken) :=
  match ts with
  | .opening :: .closing :: rest => some ([], rest)
  | .opening :: rest =>
    match byteList rest with
    | some (bs, .closing :: after) => some (bs, after)
    | _ => none
  | _ => none

/-- The line of a `feed`, `framex` or `frame` (R57). -/
def parsePseudo (ts : List AsmToken) : Option AsmLine :=
  match ts with
  | .name ['f', 'e', 'e', 'd'] :: rest =>
    match byteList rest with
    | some (bs, []) => some (.feed bs)
    | _ => none
  | .name ['f', 'r', 'a', 'm', 'e', 'x'] :: .num len :: .comma :: .num id :: .comma :: .num src :: .comma :: .num dst :: .comma
      :: rest =>
    match asBits 16 len, asBits 16 id, asBits 8 src, asBits 8 dst, payloadList rest with
    | some len, some id, some src, some dst, some (payload, [.comma, .num ck]) =>
      (asBits 16 ck).map (.framex len id src dst payload)
    | _, _, _, _, _ => none
  | .name ['f', 'r', 'a', 'm', 'e'] :: .num id :: .comma :: .num src :: .comma :: .num dst :: .comma :: rest =>
    match asBits 16 id, asBits 8 src, asBits 8 dst, payloadList rest with
    | some id, some src, some dst, some (payload, []) => some (.frame id src dst payload)
    | _, _, _, _ => none
  | _ => none

/-- The line of a command, or of a pseudo-command (R56, R57). -/
def parseTokens (ts : List AsmToken) : Option AsmLine :=
  match ts with
  | [.name ['p', 'b'], .num n] => (asBits 8 n).map .pb
  | [.name ['r', 'e', 's', 'e', 't']] => some .reset
  | [.name ['r', 'd', 'b', 'u', 'f'], .num n] => (asBits 24 n).map .rdbuf
  | [.name ['r', 'd', 'p', 'a', 'r', 's', 'e', 'd']] => some .rdparsed
  | [.name ['r', 'd', 'e', 'r', 'r', 'o', 'r', 's']] => some .rderrors
  | ts => parsePseudo ts

/-- The words one line of text assembles to (R56): a blank or comment line gives none, a line that is not of the syntax has
no answer. -/
def assemble (c : Cksum) (line : List Char) : Option (List Word) :=
  match tokens [] line with
  | none => none
  | some [] => some []
  | some ts => (parseTokens ts).map (AsmLine.words c)

end Sys2Proof.Machine
end

