-- ==== Sys2Proof/Safety.lean ====
section
/-! DEFINITION. What claims say of the block: the invariant table of 41_parse_byte R76, a held frame (42_readout R83), the
responses of a run (R79), the transition table (R75), and when two states cannot be told apart (10_state R18, R17). -/

namespace Sys2Proof.Machine

/-- `L`, the declared payload length of the frame in progress (R60). -/
def declaredLen (s : State) : Half := leHalf (byteAt s 2) (byteAt s 3)

/-- The magic bytes stand at offsets 0 and 1. -/
abbrev MagicHeld (s : State) : Prop := byteAt s 0 = magicB ∧ byteAt s 1 = magicR

/-- `L ≤ C − 10`, in exact numbers. -/
abbrev LengthBounded (s : State) : Prop := (declaredLen s).toNat + overhead ≤ s.cfg.capacity

/-- The configuration, the counters, the response and the buffer's cells are what the spec lets them be (R7, R8, R21, R22, R51, R28). -/
abbrev PortsWf (s : State) : Prop :=
  configValid s.cfg = true ∧ s.parsed < 2 ^ s.cfg.cntW ∧ s.errors < 2 ^ s.cfg.cntW ∧
    (∀ r ∈ s.resp, r < 2 ^ max 32 s.cfg.cntW) ∧
    Memory.wf s.cfg.bufInit s.buf = true ∧ (∀ c ∈ s.buf, c.1 < s.cfg.capacity)

/-- The rows of R76 for the states before the length is known. -/
abbrev HeaderRows (s : State) : Prop :=
  (s.st = ParseState.waitStart.code → s.cur ≤ s.cfg.capacity) ∧
    (s.st = ParseState.waitHeader.code → s.cur = 1 ∧ byteAt s 0 = magicB) ∧
    (s.st = ParseState.waitLengthL.code → s.cur = 2 ∧ MagicHeld s) ∧
    (s.st = ParseState.waitLengthH.code → s.cur = 3 ∧ s.rem = (byteAt s 2).setWidth 16 ∧ MagicHeld s)

/-- `rem = L ≤ C − 10` and the magic held: R76's row of the four identifier states. -/
abbrev IdRow (s : State) : Prop := s.rem = declaredLen s ∧ LengthBounded s ∧ MagicHeld s

/-- The rows of R76 for the identifier states. -/
abbrev IdRows (s : State) : Prop :=
  (s.st = ParseState.waitMsgIdL.code → s.cur = 4 ∧ IdRow s) ∧
    (s.st = ParseState.waitMsgIdH.code → s.cur = 5 ∧ IdRow s) ∧
    (s.st = ParseState.waitSrcId.code → s.cur = 6 ∧ IdRow s) ∧
    (s.st = ParseState.waitDstId.code → s.cur = 7 ∧ IdRow s)

/-- The rows of R76 for the payload and the checksum: `cur = 8 + L − rem` is written `cur + rem = 8 + L`. -/
abbrev BodyRows (s : State) : Prop :=
  (s.st = ParseState.waitPayload.code →
      s.cur + s.rem.toNat = 8 + (declaredLen s).toNat ∧ 1 ≤ s.rem.toNat ∧ s.rem.toNat ≤ (declaredLen s).toNat ∧
        LengthBounded s ∧ MagicHeld s) ∧
    (s.st = ParseState.waitChecksumL.code →
      s.cur = 8 + (declaredLen s).toNat ∧ s.rem = 0#16 ∧ LengthBounded s ∧ MagicHeld s) ∧
    (s.st = ParseState.waitChecksumH.code →
      s.cur = 9 + (declaredLen s).toNat ∧ s.rem = 0#16 ∧ LengthBounded s ∧ MagicHeld s)

/-- `st` holds a running state's code (R16). -/
abbrev Running (s : State) : Prop := 1 ≤ s.st.toNat ∧ s.st.toNat ≤ 11

/-- The invariant of R76, with what R7, R8, R21, R22, R28 and R51 say of the rest of the state. -/
abbrev FramerInv (s : State) : Prop := PortsWf s ∧ Running s ∧ HeaderRows s ∧ IdRows s ∧ BodyRows s

/-- The buffer offset a `PARSE_BYTE` stores at, when it stores: `cur`, which `WAIT_START` first sets to 0 (R62, R30). -/
def storeOffset (s : State) : Nat := if s.st = ParseState.waitStart.code then 0 else s.cur

/-- Whether `PARSE_BYTE b` stores its byte: every byte but a magic mismatch (R33, R75). -/
def stores (s : State) (b : Byte) : Bool :=
  if s.st = ParseState.waitStart.code then b == magicB
  else if s.st = ParseState.waitHeader.code then b == magicR
  else true

/-- The outcome of the checksum predicate over the buffer of `s`, range checks aside (R61). -/
def frameChecks (s : State) : Bool :=
  leHalf (byteAt s (8 + (declaredLen s).toNat)) (byteAt s (9 + (declaredLen s).toNat))
    == checksum s.cfg.cksum ((List.range (8 + (declaredLen s).toNat)).map (byteAt s))

/-- The state after the byte `b` is accepted at `cur` (R33). -/
def stored (b : Byte) (s : State) : State :=
  (s.setBuf (Memory.write s.cfg.bufInit s.buf s.cur b)).setCur (s.cur + 1)

/-- The transition table of R75: next `st` and response of `PARSE_BYTE b`, by the code in `st`. `rem` is read as it stands
before the byte; the verdict is taken over the buffer with `b` stored. -/
def transition (s : State) (b : Byte) : ParseState × ParseState :=
  match ParseState.ofCode s.st with
  | some .waitStart => if b = 0x42#8 then (.waitHeader, .waitHeader) else (.waitStart, .waitStart)
  | some .waitHeader => if b = 0x52#8 then (.waitLengthL, .waitLengthL) else (.waitStart, .waitStart)
  | some .waitLengthL => (.waitLengthH, .waitLengthH)
  | some .waitLengthH =>
    if (leHalf (s.rem.setWidth 8) b).toNat ≤ s.cfg.capacity - 10 then (.waitMsgIdL, .waitMsgIdL) else (.waitStart, .waitStart)
  | some .waitMsgIdL => (.waitMsgIdH, .waitMsgIdH)
  | some .waitMsgIdH => (.waitSrcId, .waitSrcId)
  | some .waitSrcId => (.waitDstId, .waitDstId)
  | some .waitDstId => if s.rem = 0#16 then (.waitChecksumL, .waitChecksumL) else (.waitPayload, .waitPayload)
  | some .waitPayload => if s.rem = 1#16 then (.waitChecksumL, .waitChecksumL) else (.waitPayload, .waitPayload)
  | some .waitChecksumL => (.waitChecksumH, .waitChecksumH)
  | some .waitChecksumH => if frameChecks (stored b s) then (.waitStart, .newMessage) else (.waitStart, .error)
  | _ => (.error, .error)

/-- The "stores `b` at" column of R75, for a byte that is stored. -/
def tableOffset (s : State) : Nat :=
  match ParseState.ofCode s.st with
  | some .waitStart => 0
  | some .waitHeader => 1
  | some .waitLengthL => 2
  | some .waitLengthH => 3
  | some .waitMsgIdL => 4
  | some .waitMsgIdH => 5
  | some .waitSrcId => 6
  | some .waitDstId => 7
  | some .waitPayload => 8 + (declaredLen s).toNat - s.rem.toNat
  | some .waitChecksumL => 8 + (declaredLen s).toNat
  | some .waitChecksumH => 9 + (declaredLen s).toNat
  | _ => 0

/-- The commands a host is allowed to send (R112): any byte, `RESET`, the counter reads, and `READ_BUF` below `C`. -/
def hostMaySend (s : State) (i : Instr) : Bool :=
  match i with
  | .parseByte _ | .reset | .readParsed | .readErrors => true
  | .readBuf addr => decide (addr.toNat < s.cfg.capacity)
  | _ => false

/-- The responses of `n` steps in order, and the state after them; no answer when a step stops. -/
def responses (n : Nat) (s : State) : Option (List Nat × State) :=
  match n with
  | 0 => some ([], s)
  | n + 1 =>
    match step s with
    | .next t => (responses n t).map fun (rs, u) => (t.resp.toList ++ rs, u)
    | .fault _ => none
    | .refused _ => none

/-- The responses R79 gives for the bytes of a well-formed frame with `len` payload bytes, but for the last. -/
def frameResponses (len : Nat) : List Nat :=
  [2, 3, 4, 5, 6, 7, 8] ++ (if len = 0 then [10] else List.replicate len 9 ++ [10]) ++ [11]

/-- The buffer's first bytes are `f`. -/
def BufferStarts (f : List Byte) (s : State) : Prop := ∀ k, (h : k < f.length) → byteAt s k = f[k]

/-- The frame bytes `f` are held and no later frame has got past its magic bytes (R83). -/
def FrameHeld (f : List Byte) (s : State) : Prop :=
  BufferStarts f s ∧ f[0]? = some magicB ∧ f[1]? = some magicR ∧
    (s.st = ParseState.waitStart.code ∨ s.st = ParseState.waitHeader.code ∧ s.cur = 1 ∨
      s.st = ParseState.waitLengthL.code ∧ s.cur = 2)

/-- Two states that differ at most in what R17 and R18 call unobservable: `rem` before a length byte is taken, and `cur` in
`WAIT_START`. -/
structure Indistinguishable (s t : State) : Prop where
  cfg : s.cfg = t.cfg
  st : s.st = t.st
  parsed : s.parsed = t.parsed
  errors : s.errors = t.errors
  buf : s.buf = t.buf
  pending : s.pending = t.pending
  resp : s.resp = t.resp
  cur : s.st ≠ ParseState.waitStart.code → s.cur = t.cur
  rem : s.st ≠ ParseState.waitStart.code → s.st ≠ ParseState.waitHeader.code → s.st ≠ ParseState.waitLengthL.code →
    s.rem = t.rem

end Sys2Proof.Machine
end

