-- ==== Sys2Proof/Certificates/Slice0/Obligations.lean ====
section
/-! DEFINITION. The statements for the provers, from the numbered rules of spec/. -/

open Sys2Proof Sys2Proof.Machine

/-! ### Encoding -/

/-- Every command decodes back from its word; every arm row is selected by its word and its own `st` (R46, R47, R49, R59). -/
def Obligations.DecodeOfEncode : Prop :=
  (∀ i : Instr, i.armState = none → decode (encode i) = .ok i) ∧
    (∀ (i : Instr) (p : ParseState), i.armState = some p → decodeAt p.code (encode i) = .ok i)

/-- A word that decodes is the word of the instruction it decodes to: no bit is dropped (R46, R50). -/
def Obligations.EncodeOfDecode : Prop :=
  ∀ (w : Word) (i : Instr), decode w = .ok i → encode i = w ∧ i.armState = none

/-- R49: a word is the command of the row whose match it has under the row's mask, at most one row matches, and a `PARSE_BYTE`
word selects the arm row of the `st` code. -/
def Obligations.DecodeFollowsOpcodeMap : Prop :=
  ∀ w : Word,
    (w &&& 0xFFFFFF00#32 = 0x10000000#32 ↔ decode w = .ok (.parseByte (w.setWidth 8))) ∧
    (w &&& 0xFFFFFFFF#32 = 0x20000000#32 ↔ decode w = .ok .reset) ∧
    (w &&& 0xFF000000#32 = 0x30000000#32 ↔ decode w = .ok (.readBuf (w.setWidth 24))) ∧
    (w &&& 0xFFFFFFFF#32 = 0x40000000#32 ↔ decode w = .ok .readParsed) ∧
    (w &&& 0xFFFFFFFF#32 = 0x50000000#32 ↔ decode w = .ok .readErrors) ∧
    ([(0xFFFFFF00#32, 0x10000000#32), (0xFFFFFFFF#32, 0x20000000#32), (0xFF000000#32, 0x30000000#32),
      (0xFFFFFFFF#32, 0x40000000#32), (0xFFFFFFFF#32, 0x50000000#32)].countP
        (fun row : Word × Word => w &&& row.1 == row.2)) ≤ 1 ∧
    (∀ (p : ParseState) (i : Instr), w &&& 0xFFFFFF00#32 = 0x10000000#32 → armOf p (w.setWidth 8) = some i →
      decodeAt p.code w = .ok i)

/-- R50: exactly the words it lists are refused with `ReservedCommand`, in every state; a `READ_BUF` at or above `C` is not one
of them, and is refused by value. -/
def Obligations.ReservedWordsRefused : Prop :=
  ∀ (s : State) (w : Word) (ws : List Word), s.pending = w :: ws →
    (∀ addr : BitVec 24, w = 0x30000000#32 ||| addr.setWidth 32 → s.cfg.capacity ≤ addr.toNat →
      step s = .refused (.readOutOfRange addr.toNat)) ∧
    ((w.extractLsb' 28 4 = 0#4 ∨ 6#4 ≤ w.extractLsb' 28 4 ∨ w.extractLsb' 24 4 ≠ 0#4 ∨
        (w.extractLsb' 28 4 = 1#4 ∧ w.extractLsb' 8 16 ≠ 0#16) ∨
        ((w.extractLsb' 28 4 = 2#4 ∨ w.extractLsb' 28 4 = 4#4 ∨ w.extractLsb' 28 4 = 5#4) ∧ w.extractLsb' 0 24 ≠ 0#24)) ↔
      step s = .refused (.reservedCommand w))

/-- Words written out from the fields of R46, one for each command, and the arm that `st` selects (R49). -/
def Obligations.SampleWordsDecode : Prop :=
  decode 0x10000042#32 = .ok (.parseByte 0x42#8) ∧
    decode 0x20000000#32 = .ok .reset ∧
    decode 0x3000000A#32 = .ok (.readBuf 10#24) ∧
    decode 0x40000000#32 = .ok .readParsed ∧
    decode 0x50000000#32 = .ok .readErrors ∧
    decodeAt 9#4 0x10000042#32 = .ok (.parseByteWaitPayload 0x42#8) ∧
    decode 0x11000042#32 = .error .rsv ∧
    decode 0x10000142#32 = .error .operand ∧
    decode 0x60000000#32 = .error .op

/-- R52: the codes by position from 0, no state for 13 to 15, and the running states' codes. -/
def Obligations.ParseStateCodes : Prop :=
  [ParseState.newMessage, .waitStart, .waitHeader, .waitLengthL, .waitLengthH, .waitMsgIdL, .waitMsgIdH, .waitSrcId,
      .waitDstId, .waitPayload, .waitChecksumL, .waitChecksumH, .error].map (fun p => p.code.toNat) = List.range 13 ∧
    (∀ (c : BitVec 4) (p : ParseState), ParseState.ofCode c = some p ↔ c = p.code) ∧
    (∀ c : BitVec 4, 13 ≤ c.toNat → ParseState.ofCode c = none) ∧
    ∀ p : ParseState, p.running = true ↔ 1 ≤ p.code.toNat ∧ p.code.toNat ≤ 11

/-- A line of R56 or R57 assembles to the words of R46. -/
def Obligations.SampleLinesAssemble : Prop :=
  assemble .collaborator ['p', 'b', ' ', '\'', 'B', '\''] = some [0x10000042#32] ∧
    assemble .collaborator ['r', 'd', 'b', 'u', 'f', ' ', '0', 'x', '1', '0', ';', 'x'] = some [0x30000010#32] ∧
    assemble .collaborator ['f', 'e', 'e', 'd', ' ', '1', ',', ' ', '2', '5', '5'] = some [0x10000001#32, 0x100000FF#32]

/-! ### A step -/

/-- A step runs the instruction its oldest command decodes to, on the state with that command taken (R36, R40). -/
def Obligations.StepRunsDecodedCommand : Prop :=
  ∀ (s : State) (w : Word) (ws : List Word) (i : Instr), s.pending = w :: ws → decode w = .ok i →
    step s = exec i { s with pending := ws }

/-- With no command issued, a step holds the state (R100; the idle step is log entry 3). -/
def Obligations.StepWithoutCommandHoldsState : Prop := ∀ s : State, s.pending = [] → step s = .next s

/-! ### Construction and RESET -/

/-- R101: the state construction leaves, for every configuration of the range R7 allows. -/
def Obligations.ConstructionValues : Prop :=
  ∀ c : Config, 10 ≤ c.capacity → c.capacity ≤ 2 ^ 24 → 1 ≤ c.cntW →
    ∃ s : State, construct c = .next s ∧ s.cfg = c ∧ s.st = 1#4 ∧ s.cur = 0 ∧ s.rem = 0#16 ∧ s.parsed = 0 ∧ s.errors = 0 ∧
      ∀ k, (h : k < c.bufInit.length) → byteAt s k = c.bufInit[k]

/-- R7: exactly the capacities outside `10 ≤ C ≤ 2^24` are refused at construction as such. -/
def Obligations.BadCapacityRefused : Prop :=
  ∀ c : Config, (c.capacity < 10 ∨ 2 ^ 24 < c.capacity) ↔ construct c = .refused (.badCapacity c.capacity)

/-- `State.reset` is the construction of the parameters the log chose (log entries 5 to 8). -/
def Obligations.ResetStateIsConstructed : Prop := construct Config.atReset = .next State.reset

/-- R58: what RESET writes, all it leaves, its one encoding, in every state. -/
def Obligations.ResetCommand : Prop :=
  ∀ s : State,
    exec .reset s = .next { s with st := 1#4, cur := 0, resp := some 0 } ∧
      (∀ ws, step { s with pending := 0x20000000#32 :: ws }
        = .next { s with pending := ws, st := 1#4, cur := 0, resp := some 0 }) ∧
      (∀ w ws, w.extractLsb' 28 4 = 2#4 → w ≠ 0x20000000#32 →
        step { s with pending := w :: ws } = .refused (.reservedCommand w))

/-! ### The arms of PARSE_BYTE -/

/-- R59: `PARSE_BYTE` runs the arm of the state in `st`, faults where `st` has none, writes at most the one buffer
byte at `storeOffset`, and has the one word `0x100000bb`. -/
def Obligations.ParseByteRunsItsArm : Prop :=
  ∀ (s : State) (b : Byte),
    (∀ (p : ParseState) (i : Instr), s.st = p.code → armOf p b = some i → exec (.parseByte b) s = exec i s) ∧
      ((ParseState.ofCode s.st).bind (fun p => armOf p b) = none → exec (.parseByte b) s = .fault (.illegalState s.st)) ∧
      (∀ t : State, exec (.parseByte b) s = .next t → ∀ k, k ≠ storeOffset s → byteAt t k = byteAt s k) ∧
      (∀ w : Word, decode w = .ok (.parseByte b) ↔ w = 0x10000000#32 ||| b.setWidth 32)

/-- R62: `WAIT_START`. -/
def Obligations.WaitStartArm : Prop :=
  ∀ (s : State) (b : Byte), s.st = 1#4 → 10 ≤ s.cfg.capacity →
    (b = 0x42#8 → exec (.parseByteWaitStart b) s = .next { s with
      buf := Memory.write s.cfg.bufInit s.buf 0 b, cur := 1, st := 2#4, resp := some 2 }) ∧
    (b ≠ 0x42#8 → exec (.parseByteWaitStart b) s = .next { s with cur := 0, resp := some 1 })

/-- R63: `WAIT_HEADER`; the matched byte goes to offset `cur`, a mismatch stores nothing and leaves `cur`. -/
def Obligations.WaitHeaderArm : Prop :=
  ∀ (s : State) (b : Byte), s.st = 2#4 →
    (b = 0x52#8 → s.cur < s.cfg.capacity → exec (.parseByteWaitHeader b) s = .next { s with
      buf := Memory.write s.cfg.bufInit s.buf s.cur b, cur := s.cur + 1, st := 3#4, resp := some 3 }) ∧
    (b ≠ 0x52#8 → exec (.parseByteWaitHeader b) s = .next { s with st := 1#4, resp := some 1 })

/-- R64: `WAIT_LENGTH_L`. -/
def Obligations.WaitLengthLArm : Prop :=
  ∀ (s : State) (b : Byte), s.st = 3#4 → s.cur < s.cfg.capacity →
    exec (.parseByteWaitLengthL b) s = .next { s with
      buf := Memory.write s.cfg.bufInit s.buf s.cur b, cur := s.cur + 1, rem := b.setWidth 16, st := 4#4, resp := some 4 }

/-- R65: `WAIT_LENGTH_H`; `l` is the 16-bit little-endian length, accepted when `l ≤ C − 10`. -/
def Obligations.WaitLengthHArm : Prop :=
  ∀ (s : State) (b : Byte) (l : Half), s.st = 4#4 → s.cur < s.cfg.capacity → 10 ≤ s.cfg.capacity →
    l.toNat = s.rem.toNat % 256 + 256 * b.toNat →
    exec (.parseByteWaitLengthH b) s = .next { s with
      buf := Memory.write s.cfg.bufInit s.buf s.cur b, cur := s.cur + 1, rem := l,
      st := if l.toNat ≤ s.cfg.capacity - 10 then 5#4 else 1#4,
      resp := some (if l.toNat ≤ s.cfg.capacity - 10 then 5 else 1) }

/-- R66, R67, R68: the message id's two bytes and the source id. -/
def Obligations.IdentifierArms : Prop :=
  ∀ (s : State) (b : Byte), s.cur < s.cfg.capacity →
    (s.st = 5#4 → exec (.parseByteWaitMsgIdL b) s = .next { s with
      buf := Memory.write s.cfg.bufInit s.buf s.cur b, cur := s.cur + 1, st := 6#4, resp := some 6 }) ∧
    (s.st = 6#4 → exec (.parseByteWaitMsgIdH b) s = .next { s with
      buf := Memory.write s.cfg.bufInit s.buf s.cur b, cur := s.cur + 1, st := 7#4, resp := some 7 }) ∧
    (s.st = 7#4 → exec (.parseByteWaitSrcId b) s = .next { s with
      buf := Memory.write s.cfg.bufInit s.buf s.cur b, cur := s.cur + 1, st := 8#4, resp := some 8 })

/-- R69: `WAIT_DST_ID` and the zero-length skip. -/
def Obligations.WaitDstIdArm : Prop :=
  ∀ (s : State) (b : Byte), s.st = 8#4 → s.cur < s.cfg.capacity →
    exec (.parseByteWaitDstId b) s = .next { s with
      buf := Memory.write s.cfg.bufInit s.buf s.cur b, cur := s.cur + 1,
      st := if s.rem = 0#16 then 10#4 else 9#4, resp := some (if s.rem = 0#16 then 10 else 9) }

/-- R70: `WAIT_PAYLOAD`, with `rem ≥ 1` as the rule has it; `r` is `rem − 1`. -/
def Obligations.WaitPayloadArm : Prop :=
  ∀ (s : State) (b : Byte) (r : Half), s.st = 9#4 → s.cur < s.cfg.capacity → s.rem.toNat = r.toNat + 1 →
    exec (.parseByteWaitPayload b) s = .next { s with
      buf := Memory.write s.cfg.bufInit s.buf s.cur b, cur := s.cur + 1, rem := r,
      st := if r = 0#16 then 10#4 else 9#4, resp := some (if r = 0#16 then 10 else 9) }

/-- R71: `WAIT_CHECKSUM_L`. -/
def Obligations.WaitChecksumLArm : Prop :=
  ∀ (s : State) (b : Byte), s.st = 10#4 → s.cur < s.cfg.capacity →
    exec (.parseByteWaitChecksumL b) s = .next { s with
      buf := Memory.write s.cfg.bufInit s.buf s.cur b, cur := s.cur + 1, st := 11#4, resp := some 11 }

/-- R72 with R61: `WAIT_CHECKSUM_H` stores `b` at `cur` and compares the two stored checksum bytes with `CKSUM` of the `8 + L`
bytes before them, `L` the length in the buffer; `t` is the state with `b` stored. -/
def Obligations.WaitChecksumHArm : Prop :=
  ∀ (s t : State) (b : Byte) (l : Nat), s.st = 11#4 → s.cur < s.cfg.capacity →
    t = { s with buf := Memory.write s.cfg.bufInit s.buf s.cur b, cur := s.cur + 1 } →
    l = (byteAt t 2).toNat + 256 * (byteAt t 3).toNat → 9 + l < s.cfg.capacity →
    exec (.parseByteWaitChecksumH b) s = .next
      (if (byteAt t (8 + l)).toNat + 256 * (byteAt t (9 + l)).toNat
          = (checksum s.cfg.cksum ((List.range (8 + l)).map (byteAt t))).toNat then
        { t with parsed := (s.parsed + 1) % 2 ^ s.cfg.cntW, st := 1#4, resp := some 0 }
      else
        { t with errors := (s.errors + 1) % 2 ^ s.cfg.cntW, st := 1#4, resp := some 12 })

/-- R73: the response of `PARSE_BYTE` is the new state's code, but for the terminal report of `WAIT_CHECKSUM_H`. -/
def Obligations.ResponseOfParseByte : Prop :=
  ∀ (s t : State) (b : Byte), exec (.parseByte b) s = .next t →
    (s.st ≠ 11#4 → t.resp = some t.st.toNat) ∧
      (s.st = 11#4 → t.st = 1#4 ∧ (t.resp = some 0 ∨ t.resp = some 12))

/-- R74: a code that is no running state's faults. -/
def Obligations.IllegalStateFaults : Prop :=
  ∀ (s : State) (b : Byte), s.st = 0#4 ∨ s.st = 12#4 ∨ s.st = 13#4 ∨ s.st = 14#4 ∨ s.st = 15#4 →
    exec (.parseByte b) s = .fault (.illegalState s.st)

/-- An arm row in another state than its own is refused by name (R49; the model's choice, log entry 10). -/
def Obligations.ArmOfAnotherStateRefused : Prop :=
  ∀ (s : State) (i : Instr) (p : ParseState), i.armState = some p → s.st ≠ p.code →
    exec i s = .refused (.armNotSelected s.st)

/-- A byte that would be stored at or above `C` faults with the offset (R30). -/
def Obligations.StoreOutOfBoundsFaults : Prop :=
  ∀ (s : State) (b : Byte), Running s → stores s b = true → s.cfg.capacity ≤ storeOffset s →
    exec (.parseByte b) s = .fault (.bufferOverrun (storeOffset s))

/-- The table of R75, which the spec derives from R62 to R72: from every state of the invariant, `PARSE_BYTE` completes with the table's next state, response, stored byte and
counter; `RESET` goes to `WAIT_START`; no other command moves `st`. -/
def Obligations.TransitionFunction : Prop :=
  ∀ s : State, FramerInv s →
    (∀ b : Byte, ∃ t : State, exec (.parseByte b) s = .next t ∧
      t.st = (transition s b).1.code ∧ t.resp = some (transition s b).2.code.toNat ∧
      (∀ k, byteAt t k = if stores s b = true ∧ k = tableOffset s then b else byteAt s k) ∧
      t.parsed = (if (transition s b).2 = .newMessage then (s.parsed + 1) % 2 ^ s.cfg.cntW else s.parsed) ∧
      t.errors = (if (transition s b).2 = .error then (s.errors + 1) % 2 ^ s.cfg.cntW else s.errors)) ∧
    (∃ t : State, exec .reset s = .next t ∧ t.st = 1#4) ∧
    (∀ t : State, exec .readParsed s = .next t ∨ exec .readErrors s = .next t ∨ (∃ a, exec (.readBuf a) s = .next t) →
      t.st = s.st)

/-! ### Readout -/

/-- R80: `READ_BUF` in every state. -/
def Obligations.ReadBufCommand : Prop :=
  ∀ (s : State) (addr : BitVec 24),
    (addr.toNat < s.cfg.capacity →
      exec (.readBuf addr) s = .next { s with resp := some (byteAt s addr.toNat).toNat }) ∧
    (s.cfg.capacity ≤ addr.toNat → exec (.readBuf addr) s = .refused (.readOutOfRange addr.toNat)) ∧
    decode (0x30000000#32 ||| addr.setWidth 32) = .ok (.readBuf addr)

/-- R81, R82: the counter reads, by their only words. -/
def Obligations.ReadCounterCommands : Prop :=
  ∀ s : State,
    exec .readParsed s = .next { s with resp := some s.parsed } ∧
      exec .readErrors s = .next { s with resp := some s.errors } ∧
      (∀ w, decode w = .ok .readParsed ↔ w = 0x40000000#32) ∧
      (∀ w, decode w = .ok .readErrors ↔ w = 0x50000000#32)

/-- R37: the read commands change nothing but the response, so no later command can tell that one was issued. -/
def Obligations.ReadCommandsHaveNoSideEffect : Prop :=
  ∀ (s t : State) (i : Instr), (i = .readParsed ∨ i = .readErrors ∨ ∃ a, i = .readBuf a) → exec i s = .next t →
    { t with resp := s.resp } = s ∧ exec i t = .next t ∧ ∀ j : Instr, exec j t = exec j s

/-- The response is an output: no instruction reads it (R20). -/
def Obligations.ResponseIsNeverRead : Prop :=
  ∀ (i : Instr) (s : State) (r : Option Nat), exec i { s with resp := r } = exec i s

/-! ### The buffer -/

/-- R30: `MemWrite` in bounds writes the one byte and nothing else; out of bounds it faults. -/
def Obligations.MemWriteIsBoundsChecked : Prop :=
  ∀ (s : State) (k : Nat) (v : Byte), Memory.wf s.cfg.bufInit s.buf = true →
    (k < s.cfg.capacity → ∃ t, memWrite k v s = .next t ∧ { t with buf := s.buf } = s ∧
      Memory.wf s.cfg.bufInit t.buf = true ∧ ∀ j, byteAt t j = if j = k then v else byteAt s j) ∧
    (s.cfg.capacity ≤ k → memWrite k v s = .fault (.bufferOverrun k))

/-- R31: `MemRead` gives the byte below `C` and is refused from `C` on. -/
def Obligations.MemReadIsRangeChecked : Prop :=
  ∀ (s : State) (k : Nat), (k < s.cfg.capacity → memRead k s = .ok (byteAt s k)) ∧
    (s.cfg.capacity ≤ k → memRead k s = .error (.readOutOfRange k))

/-- R32: two bytes of the frame are the 16-bit value with the first byte low. -/
def Obligations.FieldsAreLittleEndian : Prop :=
  ∀ lo hi : Byte, (leHalf lo hi).toNat = lo.toNat + 256 * hi.toNat

/-- R48: the two length bytes fed in order give `L`, accepted exactly when `L ≤ C − 10`. -/
def Obligations.LengthFromTwoBytes : Prop :=
  ∀ (s : State) (lo hi : Byte), s.st = 3#4 → s.cur + 1 < s.cfg.capacity → 10 ≤ s.cfg.capacity →
    ∃ t u : State, exec (.parseByte lo) s = .next t ∧ exec (.parseByte hi) t = .next u ∧
      u.rem.toNat = lo.toNat + 256 * hi.toNat ∧
      (lo.toNat + 256 * hi.toNat ≤ s.cfg.capacity - 10 → u.st = 5#4) ∧
      (s.cfg.capacity - 10 < lo.toNat + 256 * hi.toNat → u.st = 1#4)

/-- Only `PARSE_BYTE` rows write the buffer, at most the one byte at `cur` (0 in `WAIT_START`), and only a byte that is
accepted (R29, R35). -/
def Obligations.BufferFrame : Prop :=
  ∀ (i : Instr) (s t : State), exec i s = .next t →
    (∀ k, k ≠ storeOffset s → byteAt t k = byteAt s k) ∧
      (∀ b, (i = .parseByte b ∨ ∃ p, armOf p b = some i) → stores s b = false → ∀ k, byteAt t k = byteAt s k) ∧
      ((i = .reset ∨ i = .readParsed ∨ i = .readErrors ∨ ∃ a, i = .readBuf a) → ∀ k, byteAt t k = byteAt s k)

/-- `VERIFY` reads no byte beyond offset `9 + L` and changes nothing (R61, R35). -/
def Obligations.VerifyReadsOnlyTheFrame : Prop :=
  ∀ s t : State, s.cfg = t.cfg → 9 + (declaredLen s).toNat < s.cfg.capacity →
    (∀ k, k ≤ 9 + (declaredLen s).toNat → byteAt t k = byteAt s k) → verify t = verify s

/-! ### Frames of the registers -/

/-- What the arms that only store and advance leave: `rem`, both counters, the configuration, the commands to come
(R62, R63, R66 to R69, R71). -/
def Obligations.AdvancingArmsFrame : Prop :=
  ∀ (s t : State) (b : Byte) (i : Instr),
    i ∈ [Instr.parseByteWaitStart b, .parseByteWaitHeader b, .parseByteWaitMsgIdL b, .parseByteWaitMsgIdH b,
      .parseByteWaitSrcId b, .parseByteWaitDstId b, .parseByteWaitChecksumL b] → exec i s = .next t →
    t.rem = s.rem ∧ t.parsed = s.parsed ∧ t.errors = s.errors ∧ t.cfg = s.cfg ∧ t.pending = s.pending ∧
      ∀ k, k ≠ storeOffset s → byteAt t k = byteAt s k

/-- What the arms that write `rem` leave: both counters, the configuration, the commands to come (R64, R65, R70). -/
def Obligations.LengthAndPayloadArmsFrame : Prop :=
  ∀ (s t : State) (b : Byte) (i : Instr),
    i ∈ [Instr.parseByteWaitLengthL b, .parseByteWaitLengthH b, .parseByteWaitPayload b] → exec i s = .next t →
    t.parsed = s.parsed ∧ t.errors = s.errors ∧ t.cfg = s.cfg ∧ t.pending = s.pending ∧ t.cur = s.cur + 1 ∧
      ∀ k, k ≠ s.cur → byteAt t k = byteAt s k

/-- What the verdict leaves: `rem`, the configuration, the commands to come, every byte but the one stored, and the other
counter (R72). -/
def Obligations.VerdictArmFrame : Prop :=
  ∀ (s t : State) (b : Byte), exec (.parseByteWaitChecksumH b) s = .next t →
    t.rem = s.rem ∧ t.cfg = s.cfg ∧ t.pending = s.pending ∧ t.cur = s.cur + 1 ∧
      (∀ k, k ≠ s.cur → byteAt t k = byteAt s k) ∧
      (t.resp = some 0 → t.errors = s.errors) ∧ (t.resp = some 12 → t.parsed = s.parsed)

/-- The counters move in no command but the byte that ends a frame, and then exactly one of them, by one modulo `2^CNT_W`
(R21, R22). -/
def Obligations.CountersMoveOnlyOnVerdict : Prop :=
  ∀ (i : Instr) (s t : State), exec i s = .next t →
    (t.parsed = s.parsed ∧ t.errors = s.errors) ∨
      (s.st = 11#4 ∧ t.st = 1#4 ∧ (∃ b, i = .parseByte b ∨ i = .parseByteWaitChecksumH b) ∧
        ((t.resp = some 0 ∧ t.parsed = (s.parsed + 1) % 2 ^ s.cfg.cntW ∧ t.errors = s.errors) ∨
          (t.resp = some 12 ∧ t.errors = (s.errors + 1) % 2 ^ s.cfg.cntW ∧ t.parsed = s.parsed)))

/-- No step changes the construction parameters; a step takes the oldest command and no other (R23, R40). -/
def Obligations.ConfigurationIsFixed : Prop :=
  ∀ s t : State, step s = .next t → t.cfg = s.cfg ∧ t.pending = s.pending.tail

/-! ### Invariants and whole-machine rules -/

/-- The state after construction meets the invariant (R76, R101). -/
def Obligations.ConstructionMeetsInvariant : Prop := ∀ (c : Config) (s : State), construct c = .next s → FramerInv s

/-- Every command keeps the invariant table of R76, which the spec derives from R75, R58 and R17. -/
def Obligations.EveryStepKeepsInvariant : Prop := ∀ s t : State, FramerInv s → step s = .next t → FramerInv t

/-- The sentence of R76 that the spec derives: in every state a run of commands from construction reaches, the invariant table holds. -/
def Obligations.EveryReachedStateMeetsInvariant : Prop :=
  ∀ (c : Config) (s t : State) (ws : List Word) (n : Nat), construct c = .next s →
    Host.Core.run core n { s with pending := ws } = .next t → FramerInv t

/-- R77, which the spec derives from R76 and R65: under the invariant no step faults: no write leaves the buffer, and `cur ≤ C`. -/
def Obligations.NoStepFaultsUnderInvariant : Prop :=
  ∀ s : State, FramerInv s → s.cur ≤ s.cfg.capacity ∧ ∀ f, step s ≠ .fault f

/-- `cur ≤ C` is kept by every step, from every state that has it (R17). -/
def Obligations.CursorStaysWithinBuffer : Prop :=
  ∀ s t : State, s.cur ≤ s.cfg.capacity → 10 ≤ s.cfg.capacity → step s = .next t → t.cur ≤ t.cfg.capacity

/-- The buffer's cells stay canonical and below `C` (R28). -/
def Obligations.BufferStaysCanonical : Prop :=
  ∀ s t : State, Memory.wf s.cfg.bufInit s.buf = true → (∀ c ∈ s.buf, c.1 < s.cfg.capacity) → step s = .next t →
    Memory.wf t.cfg.bufInit t.buf = true ∧ ∀ c ∈ t.buf, c.1 < t.cfg.capacity

/-- `st` stays a running state, from every state where it is one (R16). -/
def Obligations.StateStaysRunning : Prop := ∀ s t : State, Running s → step s = .next t → Running t

/-- No sequence of command words, legal or not, brings a constructed block to a fault (R89). -/
def Obligations.NoRunFaults : Prop :=
  ∀ (c : Config) (s : State) (ws : List Word) (n : Nat) (f : Fault), construct c = .next s →
    Host.Core.run core n { s with pending := ws } ≠ .fault f

/-- R112: under the invariant every command a host may send is answered. -/
def Obligations.AllowedCommandsAreAnswered : Prop :=
  ∀ (s : State) (i : Instr) (ws : List Word), FramerInv s → hostMaySend s i = true → s.pending = encode i :: ws →
    ∃ t : State, step s = .next t ∧ t.pending = ws ∧ t.resp ≠ none

/-- What R17 and R18 call unobservable is: two states that differ only there give the same outcome and stay so. -/
def Obligations.HiddenRegistersAreUnobservable : Prop :=
  ∀ s t : State, Indistinguishable s t →
    match step s, step t with
    | .next s', .next t' => Indistinguishable s' t'
    | .fault f, .fault g => f = g
    | .refused a, .refused b => a = b
    | _, _ => False

/-- R86: a resync, on the byte that causes it. -/
def Obligations.ResyncIsSilent : Prop :=
  ∀ (s : State) (b : Byte), FramerInv s →
    (s.st = 2#4 ∧ b ≠ 0x52#8) ∨ (s.st = 4#4 ∧ s.cfg.capacity - 10 < s.rem.toNat % 256 + 256 * b.toNat) →
    ∃ t : State, exec (.parseByte b) s = .next t ∧ t.st = 1#4 ∧ t.resp = some 1 ∧ t.parsed = s.parsed ∧ t.errors = s.errors ∧
      t.cur = (if s.st = 2#4 then 1 else 4) ∧ ∀ k, k ≠ 3 ∨ s.st = 2#4 → byteAt t k = byteAt s k

/-- R79, which the spec derives from R75: a whole frame fed from `WAIT_START` gives the rule's responses, one verdict on its last byte, one counter up by one,
and stands in the buffer. -/
def Obligations.FrameRoundTrip : Prop :=
  ∀ (s : State) (len id ck : Half) (src dst : Byte) (payload : List Byte) (ws : List Word),
    Memory.wf s.cfg.bufInit s.buf = true → s.st = 1#4 → payload.length = len.toNat → len.toNat + 10 ≤ s.cfg.capacity →
    s.pending = feedWords (framexBytes len id src dst payload ck) ++ ws →
    ∃ t : State, responses (10 + len.toNat) s
        = some (frameResponses len.toNat ++
            [if ck = checksum s.cfg.cksum (frameBody len id src dst payload) then 0 else 12], t) ∧
      t.st = 1#4 ∧ t.pending = ws ∧ BufferStarts (framexBytes len id src dst payload ck) t ∧
      t.parsed = (if ck = checksum s.cfg.cksum (frameBody len id src dst payload)
        then (s.parsed + 1) % 2 ^ s.cfg.cntW else s.parsed) ∧
      t.errors = (if ck = checksum s.cfg.cksum (frameBody len id src dst payload)
        then s.errors else (s.errors + 1) % 2 ^ s.cfg.cntW)

/-- R83, which the spec derives from R62, R63, R64 and R39: after `NEW_MESSAGE` the buffer holds the frame, and every step keeps it but a `PARSE_BYTE` taken in
`WAIT_LENGTH_L`. -/
def Obligations.HeldFrameSurvives : Prop :=
  (∀ (s t : State) (b : Byte), FramerInv s → s.st = 11#4 → exec (.parseByte b) s = .next t → t.resp = some 0 →
    FrameHeld ((List.range (10 + (declaredLen s).toNat)).map fun k => if k = 9 + (declaredLen s).toNat then b else byteAt s k) t) ∧
  ∀ (f : List Byte) (s t : State), Memory.wf s.cfg.bufInit s.buf = true → FrameHeld f s → step s = .next t →
    (s.st = 3#4 → ∀ w ws, s.pending = w :: ws → ∀ b, decode w ≠ .ok (.parseByte b)) → FrameHeld f t

/-- R108: a stray `0x42` before a frame makes the block lose its magic: after `42 42 52` it searches again. -/
def Obligations.StrayMagicLosesFrame : Prop :=
  ∀ (s : State) (ws : List Word), s.st = 1#4 → 10 ≤ s.cfg.capacity →
    s.pending = feedWords [0x42#8, 0x42#8, 0x52#8] ++ ws →
    ∃ t : State, responses 3 s = some ([2, 1, 1], t) ∧ t.st = 1#4 ∧ t.pending = ws ∧ t.parsed = s.parsed ∧ t.errors = s.errors
end

