-- ==== Sys2Proof/Laws/Memory.lean ====
section
/-! SUPPORT. The buffer's cells: what a read after a write gives, and that the canonical form is kept. -/

namespace Sys2Proof.Machine

theorem Memory.read_put (init : List Byte) (m : List Host.Cell) (k j : Nat) (v : Byte) :
    Memory.read init (Memory.put m k v) j = if j = k then v else Memory.read init m j := by
  induction m with
  | nil => simp [Memory.put, Memory.read, eq_comm]
  | cons c rest ih =>
    obtain ⟨a, u⟩ := c
    unfold Memory.put
    split
    · simp [Memory.read, eq_comm]
    · split
      · subst_vars; simp only [Memory.read, eq_comm]; split <;> rfl
      · simp only [Memory.read, ih]; split <;> split <;> simp_all

theorem Memory.read_below {init : List Byte} {m : List Host.Cell} {lo k : Nat} (h : Memory.risesFrom lo m = true)
    (hk : k < lo) : Memory.read init m k = initByte init k := by
  induction m generalizing lo with
  | nil => rfl
  | cons c rest ih =>
    obtain ⟨a, u⟩ := c
    simp only [Memory.risesFrom, Bool.and_eq_true, decide_eq_true_eq] at h
    simp only [Memory.read, if_neg (show ¬a = k by omega)]
    exact ih h.2 (by omega)

theorem Memory.read_drop {init : List Byte} {m : List Host.Cell} {lo : Nat} (h : Memory.risesFrom lo m = true) (k j : Nat) :
    Memory.read init (Memory.drop m k) j = if j = k then initByte init k else Memory.read init m j := by
  induction m generalizing lo with
  | nil => simp only [Memory.drop, Memory.read]; split <;> simp_all
  | cons c rest ih =>
    obtain ⟨a, u⟩ := c
    simp only [Memory.risesFrom, Bool.and_eq_true, decide_eq_true_eq] at h
    unfold Memory.drop
    split
    · subst_vars
      split
      · subst_vars; exact Memory.read_below h.2 (by omega)
      · simp [Memory.read, Ne.symm (by assumption : ¬j = a)]
    · simp only [Memory.read, ih h.2]; split <;> split <;> simp_all

/-- A read after a write: the byte written at its offset, every other offset as before. -/
theorem Memory.read_write {init : List Byte} {m : List Host.Cell} (h : Memory.wf init m = true) (k j : Nat) (v : Byte) :
    Memory.read init (Memory.write init m k v) j = if j = k then v else Memory.read init m j := by
  simp only [Memory.wf, Bool.and_eq_true] at h
  unfold Memory.write
  split
  · simp [Memory.read_drop h.1, *]
  · exact Memory.read_put ..

theorem Memory.risesFrom_mono {m : List Host.Cell} {lo hi : Nat} (h : Memory.risesFrom hi m = true) (hle : lo ≤ hi) :
    Memory.risesFrom lo m = true := by
  cases m with
  | nil => rfl
  | cons c rest => simp only [Memory.risesFrom, Bool.and_eq_true, decide_eq_true_eq] at h ⊢; exact ⟨by omega, h.2⟩

theorem Memory.risesFrom_put {m : List Host.Cell} {lo k : Nat} (v : Byte) (h : Memory.risesFrom lo m = true) (hk : lo ≤ k) :
    Memory.risesFrom lo (Memory.put m k v) = true := by
  induction m generalizing lo with
  | nil => simp [Memory.put, Memory.risesFrom, hk]
  | cons c rest ih =>
    obtain ⟨a, u⟩ := c
    simp only [Memory.risesFrom, Bool.and_eq_true, decide_eq_true_eq] at h
    unfold Memory.put
    split
    · simp only [Memory.risesFrom, Bool.and_eq_true, decide_eq_true_eq]; exact ⟨hk, by omega, h.2⟩
    · split
      · subst_vars; simp [Memory.risesFrom, h.2, hk]
      · simp only [Memory.risesFrom, Bool.and_eq_true, decide_eq_true_eq]; exact ⟨h.1, ih h.2 (by omega)⟩

theorem Memory.risesFrom_drop {m : List Host.Cell} {lo : Nat} (k : Nat) (h : Memory.risesFrom lo m = true) :
    Memory.risesFrom lo (Memory.drop m k) = true := by
  induction m generalizing lo with
  | nil => rfl
  | cons c rest ih =>
    obtain ⟨a, u⟩ := c
    simp only [Memory.risesFrom, Bool.and_eq_true, decide_eq_true_eq] at h
    unfold Memory.drop
    split
    · exact Memory.risesFrom_mono h.2 (by omega)
    · simp only [Memory.risesFrom, Bool.and_eq_true, decide_eq_true_eq]; exact ⟨h.1, ih h.2⟩

theorem Memory.mem_put {m : List Host.Cell} {k : Nat} {v : Byte} {c : Host.Cell} (h : c ∈ Memory.put m k v) :
    c = (k, v) ∨ c ∈ m := by
  induction m with
  | nil => simpa [Memory.put] using h
  | cons d rest ih =>
    obtain ⟨a, u⟩ := d
    unfold Memory.put at h
    split at h
    · simpa using h
    · split at h
      · simp at h; rcases h with h | h <;> simp [h]
      · simp at h; rcases h with h | h
        · simp [h]
        · rcases ih h with h | h <;> simp [h]

theorem Memory.mem_drop {m : List Host.Cell} {k : Nat} {c : Host.Cell} (h : c ∈ Memory.drop m k) : c ∈ m := by
  induction m with
  | nil => exact h
  | cons d rest ih =>
    obtain ⟨a, u⟩ := d
    unfold Memory.drop at h
    split at h
    · simp [h]
    · simp at h; rcases h with h | h
      · simp [h]
      · simp [ih h]

/-- A write keeps the canonical form. -/
theorem Memory.wf_write {init : List Byte} {m : List Host.Cell} (k : Nat) (v : Byte) (h : Memory.wf init m = true) :
    Memory.wf init (Memory.write init m k v) = true := by
  simp only [Memory.wf, Bool.and_eq_true, List.all_eq_true] at h ⊢
  unfold Memory.write
  split
  · exact ⟨Memory.risesFrom_drop k h.1, fun c hc => h.2 c (Memory.mem_drop hc)⟩
  · refine ⟨Memory.risesFrom_put v h.1 (Nat.zero_le k), fun c hc => ?_⟩
    rcases Memory.mem_put hc with rfl | hc
    · simpa using ‹¬v = initByte init k›
    · exact h.2 c hc

/-- A write lists no offset but those listed and its own. -/
theorem Memory.mem_write {init : List Byte} {m : List Host.Cell} {k : Nat} {v : Byte} {c : Host.Cell}
    (h : c ∈ Memory.write init m k v) : c.1 = k ∨ c ∈ m := by
  unfold Memory.write at h
  split at h
  · exact .inr (Memory.mem_drop h)
  · exact (Memory.mem_put h).imp (fun e => by rw [e]) id

end Sys2Proof.Machine
end

