-- ==== Sys2Proof/Laws/State.lean ====
section
/-! SUPPORT. What each field of the state is after each setter, so that no later proof unfolds a record update. -/

namespace Sys2Proof.Machine
@[simp] theorem State.setSt_cfg (p : ParseState) (s : State) : (s.setSt p).cfg = s.cfg := rfl
@[simp] theorem State.setSt_st (p : ParseState) (s : State) : (s.setSt p).st = p.code := rfl
@[simp] theorem State.setSt_cur (p : ParseState) (s : State) : (s.setSt p).cur = s.cur := rfl
@[simp] theorem State.setSt_rem (p : ParseState) (s : State) : (s.setSt p).rem = s.rem := rfl
@[simp] theorem State.setSt_parsed (p : ParseState) (s : State) : (s.setSt p).parsed = s.parsed := rfl
@[simp] theorem State.setSt_errors (p : ParseState) (s : State) : (s.setSt p).errors = s.errors := rfl
@[simp] theorem State.setSt_buf (p : ParseState) (s : State) : (s.setSt p).buf = s.buf := rfl
@[simp] theorem State.setSt_pending (p : ParseState) (s : State) : (s.setSt p).pending = s.pending := rfl
@[simp] theorem State.setSt_resp (p : ParseState) (s : State) : (s.setSt p).resp = s.resp := rfl

@[simp] theorem State.setCur_cfg (n : Nat) (s : State) : (s.setCur n).cfg = s.cfg := rfl
@[simp] theorem State.setCur_st (n : Nat) (s : State) : (s.setCur n).st = s.st := rfl
@[simp] theorem State.setCur_cur (n : Nat) (s : State) : (s.setCur n).cur = n := rfl
@[simp] theorem State.setCur_rem (n : Nat) (s : State) : (s.setCur n).rem = s.rem := rfl
@[simp] theorem State.setCur_parsed (n : Nat) (s : State) : (s.setCur n).parsed = s.parsed := rfl
@[simp] theorem State.setCur_errors (n : Nat) (s : State) : (s.setCur n).errors = s.errors := rfl
@[simp] theorem State.setCur_buf (n : Nat) (s : State) : (s.setCur n).buf = s.buf := rfl
@[simp] theorem State.setCur_pending (n : Nat) (s : State) : (s.setCur n).pending = s.pending := rfl
@[simp] theorem State.setCur_resp (n : Nat) (s : State) : (s.setCur n).resp = s.resp := rfl

@[simp] theorem State.setRem_cfg (v : Half) (s : State) : (s.setRem v).cfg = s.cfg := rfl
@[simp] theorem State.setRem_st (v : Half) (s : State) : (s.setRem v).st = s.st := rfl
@[simp] theorem State.setRem_cur (v : Half) (s : State) : (s.setRem v).cur = s.cur := rfl
@[simp] theorem State.setRem_rem (v : Half) (s : State) : (s.setRem v).rem = v := rfl
@[simp] theorem State.setRem_parsed (v : Half) (s : State) : (s.setRem v).parsed = s.parsed := rfl
@[simp] theorem State.setRem_errors (v : Half) (s : State) : (s.setRem v).errors = s.errors := rfl
@[simp] theorem State.setRem_buf (v : Half) (s : State) : (s.setRem v).buf = s.buf := rfl
@[simp] theorem State.setRem_pending (v : Half) (s : State) : (s.setRem v).pending = s.pending := rfl
@[simp] theorem State.setRem_resp (v : Half) (s : State) : (s.setRem v).resp = s.resp := rfl

@[simp] theorem State.setParsed_cfg (n : Nat) (s : State) : (s.setParsed n).cfg = s.cfg := rfl
@[simp] theorem State.setParsed_st (n : Nat) (s : State) : (s.setParsed n).st = s.st := rfl
@[simp] theorem State.setParsed_cur (n : Nat) (s : State) : (s.setParsed n).cur = s.cur := rfl
@[simp] theorem State.setParsed_rem (n : Nat) (s : State) : (s.setParsed n).rem = s.rem := rfl
@[simp] theorem State.setParsed_parsed (n : Nat) (s : State) : (s.setParsed n).parsed = n := rfl
@[simp] theorem State.setParsed_errors (n : Nat) (s : State) : (s.setParsed n).errors = s.errors := rfl
@[simp] theorem State.setParsed_buf (n : Nat) (s : State) : (s.setParsed n).buf = s.buf := rfl
@[simp] theorem State.setParsed_pending (n : Nat) (s : State) : (s.setParsed n).pending = s.pending := rfl
@[simp] theorem State.setParsed_resp (n : Nat) (s : State) : (s.setParsed n).resp = s.resp := rfl

@[simp] theorem State.setErrors_cfg (n : Nat) (s : State) : (s.setErrors n).cfg = s.cfg := rfl
@[simp] theorem State.setErrors_st (n : Nat) (s : State) : (s.setErrors n).st = s.st := rfl
@[simp] theorem State.setErrors_cur (n : Nat) (s : State) : (s.setErrors n).cur = s.cur := rfl
@[simp] theorem State.setErrors_rem (n : Nat) (s : State) : (s.setErrors n).rem = s.rem := rfl
@[simp] theorem State.setErrors_parsed (n : Nat) (s : State) : (s.setErrors n).parsed = s.parsed := rfl
@[simp] theorem State.setErrors_errors (n : Nat) (s : State) : (s.setErrors n).errors = n := rfl
@[simp] theorem State.setErrors_buf (n : Nat) (s : State) : (s.setErrors n).buf = s.buf := rfl
@[simp] theorem State.setErrors_pending (n : Nat) (s : State) : (s.setErrors n).pending = s.pending := rfl
@[simp] theorem State.setErrors_resp (n : Nat) (s : State) : (s.setErrors n).resp = s.resp := rfl

@[simp] theorem State.setBuf_cfg (m : List Host.Cell) (s : State) : (s.setBuf m).cfg = s.cfg := rfl
@[simp] theorem State.setBuf_st (m : List Host.Cell) (s : State) : (s.setBuf m).st = s.st := rfl
@[simp] theorem State.setBuf_cur (m : List Host.Cell) (s : State) : (s.setBuf m).cur = s.cur := rfl
@[simp] theorem State.setBuf_rem (m : List Host.Cell) (s : State) : (s.setBuf m).rem = s.rem := rfl
@[simp] theorem State.setBuf_parsed (m : List Host.Cell) (s : State) : (s.setBuf m).parsed = s.parsed := rfl
@[simp] theorem State.setBuf_errors (m : List Host.Cell) (s : State) : (s.setBuf m).errors = s.errors := rfl
@[simp] theorem State.setBuf_buf (m : List Host.Cell) (s : State) : (s.setBuf m).buf = m := rfl
@[simp] theorem State.setBuf_pending (m : List Host.Cell) (s : State) : (s.setBuf m).pending = s.pending := rfl
@[simp] theorem State.setBuf_resp (m : List Host.Cell) (s : State) : (s.setBuf m).resp = s.resp := rfl

@[simp] theorem State.setPending_cfg (ws : List Word) (s : State) : (s.setPending ws).cfg = s.cfg := rfl
@[simp] theorem State.setPending_st (ws : List Word) (s : State) : (s.setPending ws).st = s.st := rfl
@[simp] theorem State.setPending_cur (ws : List Word) (s : State) : (s.setPending ws).cur = s.cur := rfl
@[simp] theorem State.setPending_rem (ws : List Word) (s : State) : (s.setPending ws).rem = s.rem := rfl
@[simp] theorem State.setPending_parsed (ws : List Word) (s : State) : (s.setPending ws).parsed = s.parsed := rfl
@[simp] theorem State.setPending_errors (ws : List Word) (s : State) : (s.setPending ws).errors = s.errors := rfl
@[simp] theorem State.setPending_buf (ws : List Word) (s : State) : (s.setPending ws).buf = s.buf := rfl
@[simp] theorem State.setPending_pending (ws : List Word) (s : State) : (s.setPending ws).pending = ws := rfl
@[simp] theorem State.setPending_resp (ws : List Word) (s : State) : (s.setPending ws).resp = s.resp := rfl

@[simp] theorem State.respond_cfg (v : Nat) (s : State) : (s.respond v).cfg = s.cfg := rfl
@[simp] theorem State.respond_st (v : Nat) (s : State) : (s.respond v).st = s.st := rfl
@[simp] theorem State.respond_cur (v : Nat) (s : State) : (s.respond v).cur = s.cur := rfl
@[simp] theorem State.respond_rem (v : Nat) (s : State) : (s.respond v).rem = s.rem := rfl
@[simp] theorem State.respond_parsed (v : Nat) (s : State) : (s.respond v).parsed = s.parsed := rfl
@[simp] theorem State.respond_errors (v : Nat) (s : State) : (s.respond v).errors = s.errors := rfl
@[simp] theorem State.respond_buf (v : Nat) (s : State) : (s.respond v).buf = s.buf := rfl
@[simp] theorem State.respond_pending (v : Nat) (s : State) : (s.respond v).pending = s.pending := rfl
@[simp] theorem State.respond_resp (v : Nat) (s : State) : (s.respond v).resp = some v := rfl

@[simp] theorem State.advance_cfg (p : ParseState) (s : State) : (s.advance p).cfg = s.cfg := rfl
@[simp] theorem State.advance_st (p : ParseState) (s : State) : (s.advance p).st = p.code := rfl
@[simp] theorem State.advance_cur (p : ParseState) (s : State) : (s.advance p).cur = s.cur := rfl
@[simp] theorem State.advance_rem (p : ParseState) (s : State) : (s.advance p).rem = s.rem := rfl
@[simp] theorem State.advance_parsed (p : ParseState) (s : State) : (s.advance p).parsed = s.parsed := rfl
@[simp] theorem State.advance_errors (p : ParseState) (s : State) : (s.advance p).errors = s.errors := rfl
@[simp] theorem State.advance_buf (p : ParseState) (s : State) : (s.advance p).buf = s.buf := rfl
@[simp] theorem State.advance_pending (p : ParseState) (s : State) : (s.advance p).pending = s.pending := rfl
@[simp] theorem State.advance_resp (p : ParseState) (s : State) : (s.advance p).resp = some p.code.toNat := rfl

@[simp] theorem State.verdict_cfg (valid : Bool) (s : State) : (s.verdict valid).cfg = s.cfg := by
  cases valid <;> rfl
@[simp] theorem State.verdict_st (valid : Bool) (s : State) : (s.verdict valid).st = ParseState.waitStart.code := by
  cases valid <;> rfl
@[simp] theorem State.verdict_cur (valid : Bool) (s : State) : (s.verdict valid).cur = s.cur := by
  cases valid <;> rfl
@[simp] theorem State.verdict_rem (valid : Bool) (s : State) : (s.verdict valid).rem = s.rem := by
  cases valid <;> rfl
@[simp] theorem State.verdict_parsed (valid : Bool) (s : State) : (s.verdict valid).parsed = if valid then countUp s.cfg.cntW s.parsed else s.parsed := by
  cases valid <;> rfl
@[simp] theorem State.verdict_errors (valid : Bool) (s : State) : (s.verdict valid).errors = if valid then s.errors else countUp s.cfg.cntW s.errors := by
  cases valid <;> rfl
@[simp] theorem State.verdict_buf (valid : Bool) (s : State) : (s.verdict valid).buf = s.buf := by
  cases valid <;> rfl
@[simp] theorem State.verdict_pending (valid : Bool) (s : State) : (s.verdict valid).pending = s.pending := by
  cases valid <;> rfl
@[simp] theorem State.verdict_resp (valid : Bool) (s : State) : (s.verdict valid).resp = some (if valid then ParseState.newMessage else ParseState.error).code.toNat := by
  cases valid <;> rfl

end Sys2Proof.Machine
end

