-- ==== Sys2Proof/Laws/Ops.lean ====
section
/-! SUPPORT. What each shared operation can do, said once: the provers cite these and unfold none of the operations. -/

namespace Sys2Proof.Machine

@[simp] theorem ofCode_code (p : ParseState) : ParseState.ofCode p.code = some p := by cases p <;> rfl

theorem code_inj {p q : ParseState} : p.code = q.code ↔ p = q := by
  cases p <;> cases q <;> decide

theorem ofCode_eq_some {c : BitVec 4} {p : ParseState} : ParseState.ofCode c = some p ↔ c = p.code := by
  cases p <;> revert c <;> decide

@[simp] theorem andThen_next (s : State) (k : State → Result) : andThen (.next s) k = k s := rfl

@[simp] theorem andThen_fault (f : Fault) (k : State → Result) : andThen (.fault f) k = .fault f := rfl

@[simp] theorem andThen_refused (r : Refusal) (k : State → Result) : andThen (.refused r) k = .refused r := rfl

@[simp] theorem stored_cfg (b : Byte) (s : State) : (stored b s).cfg = s.cfg := rfl

@[simp] theorem stored_st (b : Byte) (s : State) : (stored b s).st = s.st := rfl

@[simp] theorem stored_cur (b : Byte) (s : State) : (stored b s).cur = s.cur + 1 := rfl

@[simp] theorem stored_rem (b : Byte) (s : State) : (stored b s).rem = s.rem := rfl

@[simp] theorem stored_parsed (b : Byte) (s : State) : (stored b s).parsed = s.parsed := rfl

@[simp] theorem stored_errors (b : Byte) (s : State) : (stored b s).errors = s.errors := rfl

@[simp] theorem stored_buf (b : Byte) (s : State) :
    (stored b s).buf = Memory.write s.cfg.bufInit s.buf s.cur b := rfl

@[simp] theorem stored_pending (b : Byte) (s : State) : (stored b s).pending = s.pending := rfl

@[simp] theorem stored_resp (b : Byte) (s : State) : (stored b s).resp = s.resp := rfl

/-- Storing a byte: accepted at `cur` when that is in bounds, else `BufferOverrun` (R30, R33). -/
theorem store_eq (b : Byte) (s : State) :
    store b s = if s.cur < s.cfg.capacity then .next (stored b s) else .fault (.bufferOverrun s.cur) := by
  unfold store memWrite
  split <;> rfl

/-- The buffer after an accepted byte. -/
theorem byteAt_stored {s : State} (h : Memory.wf s.cfg.bufInit s.buf = true) (b : Byte) (k : Nat) :
    byteAt (stored b s) k = if k = s.cur then b else byteAt s k :=
  Memory.read_write h s.cur k b

/-- A byte of the buffer depends on the cells and `BUF_INIT` only. -/
theorem byteAt_congr {s t : State} (hc : t.cfg = s.cfg) (hb : t.buf = s.buf) (k : Nat) : byteAt t k = byteAt s k := by
  unfold byteAt; rw [hc, hb]

/-- A read in range gives the byte. -/
theorem memRead_of_lt {s : State} {k : Nat} (h : k < s.cfg.capacity) : memRead k s = .ok (byteAt s k) := if_pos h

/-- A read at or above `C` is refused. -/
theorem memRead_of_ge {s : State} {k : Nat} (h : s.cfg.capacity ≤ k) : memRead k s = .error (.readOutOfRange k) :=
  if_neg (by omega)

/-- A run of reads in range gives the bytes in order. -/
theorem memReadRange_of_le {s : State} {k n : Nat} (h : k + n ≤ s.cfg.capacity) :
    memReadRange k n s = .ok ((List.range' k n).map (byteAt s)) := by
  induction n generalizing k with
  | zero => rfl
  | succ n ih =>
    simp [memReadRange, memRead_of_lt (show k < s.cfg.capacity by omega), ih (show k + 1 + n ≤ _ by omega), List.range'_succ]

/-- Two reads in range give the little-endian value. -/
theorem memReadHalf_of_lt {s : State} {k : Nat} (h : k + 1 < s.cfg.capacity) :
    memReadHalf k s = .ok (leHalf (byteAt s k) (byteAt s (k + 1))) := by
  simp [memReadHalf, memRead_of_lt h, memRead_of_lt (show k < s.cfg.capacity by omega)]

/-- `VERIFY` over a frame that lies in the buffer answers whether the stored checksum is the computed one (R61). -/
theorem verify_of_lt {s : State} (h : 9 + (declaredLen s).toNat < s.cfg.capacity) : verify s = .ok (frameChecks s) := by
  have h2 : memReadHalf 2 s = .ok (declaredLen s) := memReadHalf_of_lt (by omega)
  have hs : memReadHalf (8 + (declaredLen s).toNat) s
      = .ok (leHalf (byteAt s (8 + (declaredLen s).toNat)) (byteAt s (9 + (declaredLen s).toNat))) := by
    rw [memReadHalf_of_lt (by omega), show 8 + (declaredLen s).toNat + 1 = 9 + (declaredLen s).toNat by omega]
  simp only [verify, h2, hs, memReadRange_of_le (show 0 + (8 + (declaredLen s).toNat) ≤ s.cfg.capacity by omega), frameChecks,
    List.range_eq_range']

/-- An arm in its own state runs its body. -/
theorem inArm_of_eq {p : ParseState} {s : State} (h : s.st = p.code) (body : Result) : inArm p s body = body := if_pos h

/-- An arm in another state is not selected. -/
theorem inArm_of_ne {p : ParseState} {s : State} (h : s.st ≠ p.code) (body : Result) :
    inArm p s body = .refused (.armNotSelected s.st) := if_neg h

/-- The length assembled in two steps is the little-endian length (R48, R64, R65). -/
theorem lengthHigh_lengthLow (lo hi : Byte) : lengthHigh (lengthLow lo) hi = leHalf lo hi := by
  unfold lengthHigh lengthLow leHalf
  rw [BitVec.or_comm, BitVec.setWidth_setWidth_of_le _ (by decide : 8 ≤ 16), BitVec.setWidth_eq]

/-- The bounds check is `L ≤ C − 10` (R48). -/
theorem lengthFits_iff {c : Nat} {len : Half} : lengthFits c len = true ↔ len.toNat + overhead ≤ c := by
  simp [lengthFits]

/-- An accepted length leads to the ids, an oversized one back to frame search (R65). -/
theorem afterLength_eq (c : Nat) (len : Half) :
    afterLength c len = if len.toNat + overhead ≤ c then .waitMsgIdL else .waitStart := by
  simp [afterLength, lengthFits]

end Sys2Proof.Machine
end

