-- ==== Sys2Proof/Laws/PerInstr.lean ====
section
/-! SUPPORT. The family `RowEncoding`: the encoding of each instruction matches its row of the opcode table (30_encoding R49). -/

namespace Sys2Proof.Laws.RowEncoding

/-- The word of `i` has the bits its row fixes: `w & mask == match` (R49). -/
def Statement (i : Instr) : Prop := encode i &&& i.rowMask = i.rowMatch

/-- The `PARSE_BYTE` word of any byte matches the row. -/
theorem byteWord (b : Byte) : cmdWord 1#4 (b.setWidth 24) &&& 0xFFFFFF00#32 = 0x10000000#32 := by
  revert b; decide

theorem parseByte (b : Byte) : Statement (.parseByte b) := byteWord b

theorem reset : Statement .reset := by unfold Statement; decide

theorem readBuf (addr : BitVec 24) : Statement (.readBuf addr) := by
  unfold Statement
  ext k hk
  simp only [encode, cmdWord, Instr.rowMask, Instr.rowMatch, BitVec.getElem_and, BitVec.getElem_append]
  interval_cases k <;> simp

theorem readParsed : Statement .readParsed := by unfold Statement; decide

theorem readErrors : Statement .readErrors := by unfold Statement; decide

theorem parseByteWaitStart (b : Byte) : Statement (.parseByteWaitStart b) := byteWord b

theorem parseByteWaitHeader (b : Byte) : Statement (.parseByteWaitHeader b) := byteWord b

theorem parseByteWaitLengthL (b : Byte) : Statement (.parseByteWaitLengthL b) := byteWord b

theorem parseByteWaitLengthH (b : Byte) : Statement (.parseByteWaitLengthH b) := byteWord b

theorem parseByteWaitMsgIdL (b : Byte) : Statement (.parseByteWaitMsgIdL b) := byteWord b

theorem parseByteWaitMsgIdH (b : Byte) : Statement (.parseByteWaitMsgIdH b) := byteWord b

theorem parseByteWaitSrcId (b : Byte) : Statement (.parseByteWaitSrcId b) := byteWord b

theorem parseByteWaitDstId (b : Byte) : Statement (.parseByteWaitDstId b) := byteWord b

theorem parseByteWaitPayload (b : Byte) : Statement (.parseByteWaitPayload b) := byteWord b

theorem parseByteWaitChecksumL (b : Byte) : Statement (.parseByteWaitChecksumL b) := byteWord b

theorem parseByteWaitChecksumH (b : Byte) : Statement (.parseByteWaitChecksumH b) := byteWord b

end Sys2Proof.Laws.RowEncoding
end

