-- ==== Sys2Proof/Laws/Step.lean ====
section
/-! SUPPORT. What a step can do, said once. -/

namespace Sys2Proof.Machine

/-- A step that answers a next state held still with no command, or ran the oldest command's instruction. -/
theorem step_next_cases {s t : State} (h : step s = .next t) :
    (s.pending = [] ∧ t = s) ∨
      ∃ w ws i, s.pending = w :: ws ∧ decode w = .ok i ∧ exec i (s.setPending ws) = .next t := by
  unfold step at h
  split at h
  · next hp => exact .inl ⟨hp, (Host.Outcome.next.inj h).symm⟩
  · next w ws hp =>
    split at h
    · cases h
    · next i hd => exact .inr ⟨w, ws, i, hp, hd, h⟩

/-- A step that faults ran an instruction that faults. -/
theorem step_fault_cases {s : State} {f : Fault} (h : step s = .fault f) :
    ∃ w ws i, s.pending = w :: ws ∧ decode w = .ok i ∧ exec i (s.setPending ws) = .fault f := by
  unfold step at h
  split at h
  · cases h
  · next w ws hp =>
    split at h
    · cases h
    · next i hd => exact ⟨w, ws, i, hp, hd, h⟩

/-- A run goes on from the state its first step answers. -/
theorem run_next {n : Nat} {s t : State} (h : step s = .next t) :
    Host.Core.run core (n + 1) s = Host.Core.run core n t := by
  have step_on : ∀ (M : Host.Core) (s t : M.State), M.step s = .next t → M.run (n + 1) s = M.run n t := by
    intro M s t h; simp [Host.Core.run, h]
  exact step_on core s t h

/-- A run stops at a fault. -/
theorem run_fault {n : Nat} {s : State} {f : Fault} (h : step s = .fault f) :
    Host.Core.run core (n + 1) s = .fault f := by
  have stop : ∀ (M : Host.Core) (s : M.State) f, M.step s = .fault f → M.run (n + 1) s = .fault f := by
    intro M s f h; simp [Host.Core.run, h]
  exact stop core s f h

/-- A run stops at a refusal. -/
theorem run_refused {n : Nat} {s : State} {r : Refusal} (h : step s = .refused r) :
    Host.Core.run core (n + 1) s = .refused r := by
  have stop : ∀ (M : Host.Core) (s : M.State) r, M.step s = .refused r → M.run (n + 1) s = .refused r := by
    intro M s r h; simp [Host.Core.run, h]
  exact stop core s r h

/-- What the decoder reads is a command row: no word is an arm row by itself. -/
theorem decode_armState {w : Word} {i : Instr} (h : decode w = .ok i) : i.armState = none := by
  unfold decode requireZero at h
  simp only at h
  split at h <;> (repeat' split at h) <;> cases h <;> rfl

end Sys2Proof.Machine
end

