-- ==== Sys2Proof/Tests/Slice0.lean ====
section
/-! SUPPORT. Tests on single steps, with expected values from spec/95_test_vectors.md (VR, VP, VB, VC) and the tables of
30_encoding; and for every statement with hypotheses a named witness that meets them all. -/

namespace Sys2Proof.Tests

open Sys2Proof.Machine

/-! ### Small states -/

/-- The configuration of the vectors: `C = 16`, `CNT_W = 32`, `CKSUM = SUM16`. -/
def cfg16 : Config := { capacity := 16, cntW := 32, cksum := .sum16, bufInit := [] }

/-- A configuration with a capacity of its own. -/
def cfgOf (c : Nat) : Config := { cfg16 with capacity := c }

/-- The frame `F0` of 95_test_vectors. -/
def f0 : List Byte := [0x42#8, 0x52#8, 0x00#8, 0x00#8, 0x01#8, 0x00#8, 0x02#8, 0x03#8, 0x9A#8, 0x00#8]

/-- The frame `F2` of 95_test_vectors. -/
def f2 : List Byte := [0x42#8, 0x52#8, 0x02#8, 0x00#8, 0xE8#8, 0x03#8, 0x01#8, 0x02#8, 0x10#8, 0x20#8, 0xB4#8, 0x01#8]

/-- The buffer's cells when it holds `bs` from offset `k` on. -/
def cells (k : Nat) : List Byte → List Host.Cell
  | [] => []
  | b :: bs => Memory.write [] (cells (k + 1) bs) k b

/-- A state in `p` with the cursor, the counter and the buffer's first bytes. -/
def held (p : ParseState) (cur : Nat) (rem : Half) (bs : List Byte) : State :=
  { State.powerOn cfg16 with st := p.code, cur := cur, rem := rem, buf := cells 0 bs }

/-- The state after the command word `w`. -/
def after (w : Word) (s : State) : Option State :=
  match step (s.setPending [w]) with
  | .next t => some t
  | .fault _ => none
  | .refused _ => none

/-- Response, `st`, `cur`, `rem`, `parsed`, `errors`. -/
def shown (s : State) : List Nat := s.resp.toList ++ [s.st.toNat, s.cur, s.rem.toNat, s.parsed, s.errors]

/-- The same, and then the byte at offset `k`. -/
def shownAt (k : Nat) (s : State) : List Nat := shown s ++ [(byteAt s k).toNat]

/-- What a refused outcome says. -/
def refusal (o : Result) : Option Refusal :=
  match o with
  | .refused r => some r
  | .next _ => none
  | .fault _ => none

/-- What a faulted outcome says. -/
def faultOf (o : Result) : Option Fault :=
  match o with
  | .fault f => some f
  | .next _ => none
  | .refused _ => none

/-! ### Well-formedness: an arm row is no instruction outside its own state (R49) -/

theorem test_wf_armInOwnState : Instr.wellFormed .waitHeader (.parseByteWaitHeader 0x52#8) = true := by decide
theorem test_wf_armElsewhere : Instr.wellFormed .waitStart (.parseByteWaitHeader 0x52#8) = false := by decide
theorem test_wf_armInReport : Instr.wellFormed .newMessage (.parseByteWaitStart 0x42#8) = false := by decide
theorem test_wf_command : Instr.wellFormed .error (.parseByte 0x42#8) = true := by decide

/-! ### Decoding: words written out from R46, field by field (`op` ++ `rsv` ++ `operand`) -/

theorem test_decode_parseByte : decode (0b0001#4 ++ 0b0000#4 ++ 0x0000#16 ++ 0x42#8) = .ok (.parseByte 0x42#8) := by decide
theorem test_decode_reset : decode (0b0010#4 ++ 0b0000#4 ++ 0x0000#16 ++ 0x00#8) = .ok .reset := by decide
theorem test_decode_readBuf : decode (0b0011#4 ++ 0b0000#4 ++ 0x12#8 ++ 0x34#8 ++ 0x56#8) = .ok (.readBuf 0x123456#24) := by
  decide
theorem test_decode_readParsed : decode (0b0100#4 ++ 0b0000#4 ++ 0x0000#16 ++ 0x00#8) = .ok .readParsed := by decide
theorem test_decode_readErrors : decode (0b0101#4 ++ 0b0000#4 ++ 0x0000#16 ++ 0x00#8) = .ok .readErrors := by decide

/-- The eleven `PS` codes of the arm rows select the eleven arms for one word (R49, R52). -/
theorem test_decode_arms :
    [1#4, 2#4, 3#4, 4#4, 5#4, 6#4, 7#4, 8#4, 9#4, 10#4, 11#4].map (fun c => (decodeAt c 0x10000042#32).toOption)
      = [some (.parseByteWaitStart 0x42#8), some (.parseByteWaitHeader 0x42#8), some (.parseByteWaitLengthL 0x42#8),
          some (.parseByteWaitLengthH 0x42#8), some (.parseByteWaitMsgIdL 0x42#8), some (.parseByteWaitMsgIdH 0x42#8),
          some (.parseByteWaitSrcId 0x42#8), some (.parseByteWaitDstId 0x42#8), some (.parseByteWaitPayload 0x42#8),
          some (.parseByteWaitChecksumL 0x42#8), some (.parseByteWaitChecksumH 0x42#8)] := by decide

/-- VR4, VR5, VP29, VP30, VB10 to VB13. -/
theorem test_decode_reserved :
    [0x20000001#32, 0x2F000000#32, 0x10000142#32, 0x11000042#32, 0x40000001#32, 0x00000000#32, 0x60000000#32,
      0xF0000000#32].map (fun w => (decode w).toOption) = [none, none, none, none, none, none, none, none] := by decide

theorem test_tableWord : decodeTableWord 32 0x300000FF = some (.readBuf 255#24) := by decide
theorem test_tableWord_reserved : decodeTableWord 32 0x20000001 = none := by decide

/-- The table's word is the very next command, before any already issued. -/
theorem test_withFetchWord :
    (match step ((State.reset.setPending [0x20000000#32]).withFetchWord 32 0x10000042) with
      | .next t => some (shown t, t.pending)
      | .fault _ => none
      | .refused _ => none) = some ([2, 2, 1, 0, 0, 0], [0x20000000#32]) := by decide

/-! ### The text syntax (R56, R57) -/

theorem test_asm_char : assemble .sum16 "pb 'B'".toList = some [0x10000042#32] := by decide
theorem test_asm_addr : assemble .sum16 "  rdbuf 0x10 ; out of range".toList = some [0x30000010#32] := by decide
theorem test_asm_comment : assemble .sum16 "; noise".toList = some [] := by decide
theorem test_asm_wide : assemble .sum16 "pb 256".toList = none := by decide
/-- The frame `F2` as 95_test_vectors expands it. -/
theorem test_asm_frame : assemble .sum16 "frame 0x03E8, 1, 2, [0x10, 0x20]".toList = some (feedWords f2) := by decide
theorem test_asm_framex : assemble .sum16 "framex 0, 0x0001, 2, 3, [], 0x009A".toList = some (feedWords f0) := by decide

/-! ### Construction (VC1, VC2, R101) -/

theorem test_vc1 : refusal (construct (cfgOf 9)) = some (.badCapacity 9) := by decide
theorem test_vc2 : refusal (construct (cfgOf 16777217)) = some (.badCapacity 16777217) := by decide
theorem test_counterWidth : refusal (construct { cfg16 with cntW := 0 }) = some (.badCounterWidth 0) := by decide
theorem test_reset_inv : FramerInv State.reset := ⟨by decide, by decide, by decide, by decide, by decide⟩

/-! ### RESET (VR2, VR3) -/

theorem test_vr2 :
    (after 0x20000000#32 { held .waitPayload 9 3#16 [] with parsed := 2, errors := 1 }).map shown
      = some [0, 1, 0, 3, 2, 1] := by decide
theorem test_vr3 :
    (after 0x20000000#32 (held .waitChecksumH 9 0#16 (f0.take 9))).map (shownAt 8)
      = some [0, 1, 0, 0, 0, 0, 0x9A] := by decide

/-! ### PARSE_BYTE (VP1 to VP31) -/

theorem test_vp1 :
    (after 0x10000042#32 (held .waitStart 14 0#16 [])).map (fun t => (shown t, t.buf))
      = some ([2, 2, 1, 0, 0, 0], [(0, 0x42#8)]) := by decide
theorem test_vp2 :
    (after 0x10000041#32 (held .waitStart 14 0#16 [])).map (fun t => (shown t, t.buf))
      = some ([1, 1, 0, 0, 0, 0], []) := by decide
theorem test_vp4 :
    (after 0x10000052#32 (held .waitHeader 1 0#16 [0x42#8])).map (shownAt 1)
      = some [3, 3, 2, 0, 0, 0, 0x52] := by decide
theorem test_vp5 :
    (after 0x10000042#32 (held .waitHeader 1 0#16 [0x42#8])).map (fun t => (shown t, t.buf))
      = some ([1, 1, 1, 0, 0, 0], [(0, 0x42#8)]) := by decide
theorem test_vp8 :
    (after 0x100000FF#32 (held .waitLengthL 2 0x1234#16 (f0.take 2))).map (shownAt 2)
      = some [4, 4, 3, 255, 0, 0, 0xFF] := by decide
/-- VP9 to VP13: the bound is inclusive, and the high byte counts. -/
theorem test_vp9_13 :
    [(6#16, 0x10000000#32), (7#16, 0x10000000#32), (0#16, 0x10000000#32), (0#16, 0x10000001#32),
        (0xFF#16, 0x100000FF#32)].map (fun (r, w) => (after w (held .waitLengthH 3 r (f0.take 2))).map shown)
      = [some [5, 5, 4, 6, 0, 0], some [1, 1, 4, 7, 0, 0], some [5, 5, 4, 0, 0, 0],
          some [1, 1, 4, 256, 0, 0], some [1, 1, 4, 65535, 0, 0]] := by decide
theorem test_vp14 :
    (after 0x100000FF#32 { held .waitLengthH 3 0xFF#16 (f0.take 2) with cfg := cfgOf 65545 }).map
      (shownAt 3) = some [5, 5, 4, 65535, 0, 0, 0xFF] := by decide
theorem test_vp15 :
    (after 0x100000E8#32 (held .waitMsgIdL 4 2#16 (f2.take 4))).map (shownAt 4)
      = some [6, 6, 5, 2, 0, 0, 0xE8] := by decide
theorem test_vp16 :
    (after 0x10000003#32 (held .waitMsgIdH 5 2#16 (f2.take 5))).map (shownAt 5)
      = some [7, 7, 6, 2, 0, 0, 0x03] := by decide
theorem test_vp17 :
    (after 0x10000001#32 (held .waitSrcId 6 2#16 (f2.take 6))).map (shownAt 6)
      = some [8, 8, 7, 2, 0, 0, 0x01] := by decide
theorem test_vp18 :
    (after 0x10000002#32 (held .waitDstId 7 2#16 (f2.take 7))).map (shownAt 7)
      = some [9, 9, 8, 2, 0, 0, 0x02] := by decide
theorem test_vp19 :
    (after 0x10000003#32 (held .waitDstId 7 0#16 (f0.take 7))).map (shownAt 7)
      = some [10, 10, 8, 0, 0, 0, 0x03] := by decide
theorem test_vp22 :
    (after 0x10000042#32 (held .waitPayload 8 2#16 (f2.take 8))).map (shownAt 8)
      = some [9, 9, 9, 1, 0, 0, 0x42] := by decide
theorem test_vp21 :
    (after 0x10000020#32 (held .waitPayload 9 1#16 (f2.take 9))).map (shownAt 9)
      = some [10, 10, 10, 0, 0, 0, 0x20] := by decide
theorem test_vp23 :
    (after 0x100000B4#32 (held .waitChecksumL 10 0#16 (f2.take 10))).map (shownAt 10)
      = some [11, 11, 11, 0, 0, 0, 0xB4] := by decide
/-- VP25, VP26 and VP27: a wrong high byte, a wrong low byte, and a right checksum that wraps `parsed`. -/
theorem test_vp25_27 :
    [(after 0x10000001#32 (held .waitChecksumH 9 0#16 (f0.take 9))).map shown,
      (after 0x10000000#32 (held .waitChecksumH 9 0#16 (f0.take 8 ++ [0x9B#8]))).map shown,
      (after 0x10000000#32 { held .waitChecksumH 9 0#16 (f0.take 9) with parsed := 2 ^ 32 - 1 }).map shown]
      = [some [12, 1, 10, 0, 0, 1], some [12, 1, 10, 0, 0, 1], some [0, 1, 10, 0, 0, 0]] := by decide
/-- VP28, with `CNT_W = 2`. -/
theorem test_vp28 :
    (after 0x10000000#32 { held .waitChecksumH 9 0#16 (f0.take 8 ++ [0x9B#8]) with
      cfg := { cfg16 with cntW := 2 }, errors := 3 }).map shown = some [12, 1, 10, 0, 0, 0] := by decide
/-- VP24: the verdict on `F0`. -/
theorem test_vp24 :
    (after 0x10000000#32 (held .waitChecksumH 9 0#16 (f0.take 9))).map shown = some [0, 1, 10, 0, 1, 0] := by decide
/-- VP31, and the other codes that are no running state's. -/
theorem test_vp31 :
    [0#4, 12#4, 13#4, 14#4, 15#4].map
        (fun c => faultOf (step { State.powerOn cfg16 with st := c, pending := [0x10000042#32] }))
      = [some (.illegalState 0#4), some (.illegalState 12#4), some (.illegalState 13#4), some (.illegalState 14#4),
          some (.illegalState 15#4)] := by decide

/-! ### Readout (VB1 to VB9) -/

theorem test_vb1_2 :
    [(after 0x30000008#32 (held .waitStart 10 0#16 f0)).map (fun t => t.resp),
      (after 0x3000000F#32 { held .waitStart 10 0#16 [] with
        cfg := { cfg16 with bufInit := List.replicate 15 0#8 ++ [0x77#8] } }).map (fun t => t.resp)]
      = [some (some 0x9A), some (some 0x77)] := by decide
theorem test_vb3_4 :
    [refusal (step ((held .waitStart 0 0#16 []).setPending [0x30000010#32])),
      refusal (step ((held .waitStart 0 0#16 []).setPending [0x30FFFFFF#32]))]
      = [some (.readOutOfRange 16), some (.readOutOfRange 16777215)] := by decide
theorem test_vb8 :
    (after 0x40000000#32 { held .waitStart 0 0#16 [] with parsed := 2, errors := 1 }).map shown
      = some [2, 1, 0, 0, 2, 1] := by decide
theorem test_vb9 :
    (after 0x50000000#32 { held .waitStart 0 0#16 [] with parsed := 2, errors := 1 }).map shown
      = some [1, 1, 0, 0, 2, 1] := by decide

/-! ### The buffer's cells: a read after a write, and the canonical form -/

theorem test_memory_readback : Memory.read [] (Memory.write [] (cells 0 f0) 3 0x55#8) 3 = 0x55#8 := by decide
theorem test_memory_elsewhere : Memory.read [] (Memory.write [] (cells 0 f0) 3 0x55#8) 4 = 0x01#8 := by decide
theorem test_memory_wf : Memory.wf [] (Memory.write [] (cells 0 f0) 8 0x00#8) = true := by decide
theorem test_memory_illFormed : Memory.wf [] [(1, 0x05#8), (0, 0x05#8)] = false ∧ Memory.wf [] [(1, 0x00#8)] = false := by decide

/-! ### Witnesses: for each statement with hypotheses, values that meet them all -/

/-- One state of each row of R76, of length 2 where the length is known; each meets the invariant. -/
def rows : List State :=
  [held .waitStart 16 7#16 [], held .waitHeader 1 7#16 (f2.take 1), held .waitLengthL 2 7#16 (f2.take 2),
    held .waitLengthH 3 2#16 (f2.take 3), held .waitMsgIdL 4 2#16 (f2.take 4), held .waitMsgIdH 5 2#16 (f2.take 5),
    held .waitSrcId 6 2#16 (f2.take 6), held .waitDstId 7 2#16 (f2.take 7), held .waitPayload 9 1#16 (f2.take 9),
    held .waitChecksumL 10 0#16 (f2.take 10), held .waitChecksumH 11 0#16 (f2.take 11)]

theorem rows_ports : ∀ s ∈ rows, PortsWf s := by decide
theorem rows_running : ∀ s ∈ rows, Running s := by decide
theorem rows_header : ∀ s ∈ rows, HeaderRows s := by decide
theorem rows_id : ∀ s ∈ rows, IdRows s := by decide
theorem rows_body : ∀ s ∈ rows, BodyRows s := by decide
theorem rows_inv : ∀ s ∈ rows, FramerInv s :=
  fun s h => ⟨rows_ports s h, rows_running s h, rows_header s h, rows_id s h, rows_body s h⟩

/-- The last byte of a frame at the boundary `L = C − 10`. -/
def lastOfFull : State :=
  { held .waitChecksumH 15 0#16 [0x42#8, 0x52#8, 0x06#8, 0x00#8, 0x01#8, 0x00#8, 0x02#8, 0x03#8] with resp := some 11 }

theorem lastOfFull_inv : FramerInv (lastOfFull.setPending [0x10000000#32]) :=
  ⟨by decide, by decide, by decide, by decide, by decide⟩

theorem witness_decodeOfEncode :
    Instr.armState (.readBuf 0xFFFFFF#24) = none ∧ Instr.armState (.parseByteWaitStart 0xFF#8) = some .waitStart ∧
      Instr.armState (.parseByteWaitChecksumH 0#8) = some .waitChecksumH := by decide

theorem witness_encodeOfDecode : decode 0x30FFFFFF#32 = .ok (.readBuf 0xFFFFFF#24) := by decide

theorem witness_decodeFollowsOpcodeMap :
    0x100000FF#32 &&& 0xFFFFFF00#32 = 0x10000000#32 ∧
      armOf .waitDstId (BitVec.setWidth 8 0x100000FF#32) = some (.parseByteWaitDstId 0xFF#8) := by decide

/-- One word for each clause of R50, at its boundary, and two that are no reserved words. -/
theorem witness_reservedWordsRefused :
    [0x0FFFFFFF#32, 0x60000000#32, 0xF0000000#32, 0x31000000#32, 0x10000100#32, 0x20000001#32, 0x40800000#32, 0x50000001#32,
        0x3FFFFFFF#32, 0x30FFFFFF#32, 0x100000FF#32].map
        (fun w => refusal (step { State.powerOn (cfgOf (2 ^ 24)) with pending := [w] }))
      = [some (.reservedCommand 0x0FFFFFFF#32), some (.reservedCommand 0x60000000#32), some (.reservedCommand 0xF0000000#32),
          some (.reservedCommand 0x31000000#32), some (.reservedCommand 0x10000100#32), some (.reservedCommand 0x20000001#32),
          some (.reservedCommand 0x40800000#32), some (.reservedCommand 0x50000001#32), some (.reservedCommand 0x3FFFFFFF#32),
          none, none] ∧
      (0x30000010#32 = 0x30000000#32 ||| (16#24).setWidth 32 ∧ cfg16.capacity ≤ (16#24).toNat) := by decide

theorem witness_parseStateCodes : 13 ≤ (13#4).toNat ∧ 13 ≤ (15#4).toNat ∧ ParseState.ofCode 12#4 = some .error := by decide

theorem witness_stepRunsDecodedCommand :
    ((held .waitStart 0 0#16 []).setPending [0x10000042#32]).pending = 0x10000042#32 :: [] ∧
      decode 0x10000042#32 = .ok (.parseByte 0x42#8) := by decide

theorem witness_stepWithoutCommandHoldsState : State.reset.pending = [] := by decide

theorem witness_constructionValues :
    (10 ≤ (cfgOf 10).capacity ∧ (cfgOf 10).capacity ≤ 2 ^ 24 ∧ 1 ≤ (cfgOf 10).cntW) ∧
      (10 ≤ (cfgOf (2 ^ 24)).capacity ∧ (cfgOf (2 ^ 24)).capacity ≤ 2 ^ 24 ∧ 1 ≤ { cfg16 with cntW := 1 }.cntW) := by decide

theorem witness_badCapacityRefused :
    [refusal (construct (cfgOf 9)), refusal (construct (cfgOf 10)), refusal (construct (cfgOf (2 ^ 24))),
      refusal (construct (cfgOf (2 ^ 24 + 1)))] = [some (.badCapacity 9), none, none, some (.badCapacity 16777217)] := by decide

theorem witness_resetCommand : BitVec.extractLsb' 28 4 0x2F000000#32 = 2#4 ∧ 0x2F000000#32 ≠ 0x20000000#32 := by decide

theorem witness_parseByteRunsItsArm :
    (held .waitPayload 9 1#16 (f2.take 9)).st = ParseState.waitPayload.code ∧
      armOf .waitPayload 0x20#8 = some (.parseByteWaitPayload 0x20#8) ∧
      (ParseState.ofCode 13#4).bind (fun p => armOf p 0x20#8) = none ∧ (ParseState.ofCode 0#4).bind (fun p => armOf p 0x20#8) = none ∧
      ∃ t, exec (.parseByte 0x20#8) (held .waitPayload 9 1#16 (f2.take 9)) = .next t ∧ byteAt t 9 ≠ 0#8 :=
  ⟨by decide, by decide, by decide, by decide, ⟨_, rfl, by decide⟩⟩

/-- Both clauses of `WaitStartArm`, at the smallest capacity. -/
theorem witness_waitStartArm :
    (State.powerOn (cfgOf 10)).st = 1#4 ∧ 10 ≤ (State.powerOn (cfgOf 10)).cfg.capacity ∧ 0x43#8 ≠ 0x42#8 := by decide

/-- Both clauses of `WaitHeaderArm`. -/
theorem witness_waitHeaderArm :
    (held .waitHeader 15 0#16 []).st = 2#4 ∧ (held .waitHeader 15 0#16 []).cur < (held .waitHeader 15 0#16 []).cfg.capacity ∧
      0x42#8 ≠ 0x52#8 := by decide

theorem witness_waitLengthLArm :
    (held .waitLengthL 15 0#16 []).st = 3#4 ∧ (held .waitLengthL 15 0#16 []).cur < (held .waitLengthL 15 0#16 []).cfg.capacity := by
  decide

/-- `L = C − 10` and `L = C − 9`, the boundary of `WaitLengthHArm`. -/
theorem witness_waitLengthHArm :
    let s := held .waitLengthH 3 6#16 (f0.take 3)
    let t := held .waitLengthH 3 7#16 (f0.take 3)
    (s.st = 4#4 ∧ s.cur < s.cfg.capacity ∧ 10 ≤ s.cfg.capacity ∧ (6#16).toNat = s.rem.toNat % 256 + 256 * (0#8).toNat) ∧
      (t.st = 4#4 ∧ t.cur < t.cfg.capacity ∧ 10 ≤ t.cfg.capacity ∧ (7#16).toNat = t.rem.toNat % 256 + 256 * (0#8).toNat) := by
  decide

theorem witness_identifierArms :
    ∀ p ∈ [ParseState.waitMsgIdL, .waitMsgIdH, .waitSrcId], (held p 15 0#16 []).cur < (held p 15 0#16 []).cfg.capacity ∧
      ((held p 15 0#16 []).st = 5#4 ∨ (held p 15 0#16 []).st = 6#4 ∨ (held p 15 0#16 []).st = 7#4) := by decide

theorem witness_waitDstIdArm :
    (held .waitDstId 15 0#16 []).st = 8#4 ∧ (held .waitDstId 15 0#16 []).cur < (held .waitDstId 15 0#16 []).cfg.capacity := by decide

/-- The last payload byte and the largest count. -/
theorem witness_waitPayloadArm :
    (held .waitPayload 15 1#16 []).st = 9#4 ∧ (held .waitPayload 15 1#16 []).cur < (held .waitPayload 15 1#16 []).cfg.capacity ∧
      (held .waitPayload 15 1#16 []).rem.toNat = (0#16).toNat + 1 ∧
      (held .waitPayload 15 0xFFFF#16 []).rem.toNat = (0xFFFE#16).toNat + 1 := by decide

theorem witness_waitChecksumLArm :
    (held .waitChecksumL 15 0#16 []).st = 10#4 ∧
      (held .waitChecksumL 15 0#16 []).cur < (held .waitChecksumL 15 0#16 []).cfg.capacity := by decide

/-- The longest frame the buffer takes: `9 + L = C − 1`. -/
theorem witness_waitChecksumHArm :
    let t := { lastOfFull with buf := Memory.write [] lastOfFull.buf 15 0x00#8, cur := 16 }
    lastOfFull.st = 11#4 ∧ lastOfFull.cur < lastOfFull.cfg.capacity ∧ 6 = (byteAt t 2).toNat + 256 * (byteAt t 3).toNat ∧
      9 + 6 < lastOfFull.cfg.capacity := by decide

/-- Both clauses of `ResponseOfParseByte`. -/
theorem witness_responseOfParseByte :
    (∃ t, exec (.parseByte 0x42#8) (held .waitStart 0 0#16 []) = .next t) ∧ (held .waitStart 0 0#16 []).st ≠ 11#4 ∧
      (∃ t, exec (.parseByte 0x00#8) lastOfFull = .next t) ∧ lastOfFull.st = 11#4 := ⟨⟨_, rfl⟩, by decide, ⟨_, rfl⟩, by decide⟩

theorem witness_illegalStateFaults :
    ∀ c ∈ [0#4, 12#4, 13#4, 14#4, 15#4], { State.powerOn cfg16 with st := c }.st = c := by decide

theorem witness_armOfAnotherStateRefused :
    Instr.armState (.parseByteWaitHeader 0x52#8) = some .waitHeader ∧ (held .waitStart 0 0#16 []).st ≠ ParseState.waitHeader.code := by
  decide

theorem witness_storeOutOfBoundsFaults :
    Running (held .waitHeader 16 0#16 []) ∧ stores (held .waitHeader 16 0#16 []) 0x52#8 = true ∧
      (held .waitHeader 16 0#16 []).cfg.capacity ≤ storeOffset (held .waitHeader 16 0#16 []) := by decide

theorem witness_transitionFunction : ∀ s ∈ rows, FramerInv s := rows_inv

/-- Both sides of the bound of `READ_BUF`. -/
theorem witness_readBufCommand :
    (15#24).toNat < (held .waitStart 0 0#16 []).cfg.capacity ∧ (held .waitStart 0 0#16 []).cfg.capacity ≤ (16#24).toNat := by decide

theorem witness_readCommandsHaveNoSideEffect :
    ∃ t, exec (.readBuf 15#24) (held .waitStart 0 0#16 []) = .next t := ⟨_, rfl⟩

theorem witness_memWriteIsBoundsChecked :
    Memory.wf (held .waitStart 0 0#16 f0).cfg.bufInit (held .waitStart 0 0#16 f0).buf = true ∧
      15 < (held .waitStart 0 0#16 f0).cfg.capacity ∧ (held .waitStart 0 0#16 f0).cfg.capacity ≤ 16 := by decide

theorem witness_memReadIsRangeChecked :
    15 < (held .waitStart 0 0#16 f0).cfg.capacity ∧ (held .waitStart 0 0#16 f0).cfg.capacity ≤ 16 := by decide

/-- `L = C − 10` and `L = C − 9`. -/
theorem witness_lengthFromTwoBytes :
    let s := held .waitLengthL 2 0#16 (f0.take 2)
    s.st = 3#4 ∧ s.cur + 1 < s.cfg.capacity ∧ 10 ≤ s.cfg.capacity ∧
      (6#8).toNat + 256 * (0#8).toNat ≤ s.cfg.capacity - 10 ∧ s.cfg.capacity - 10 < (7#8).toNat + 256 * (0#8).toNat := by decide

/-- A byte that is stored, one that is not, and a command that stores none. -/
theorem witness_bufferFrame :
    (∃ t, exec (.parseByte 0x42#8) (held .waitStart 0 0#16 []) = .next t) ∧
      (∃ t, exec (.parseByteWaitHeader 0x42#8) (held .waitHeader 1 0#16 [0x42#8]) = .next t) ∧
      stores (held .waitHeader 1 0#16 [0x42#8]) 0x42#8 = false ∧ armOf .waitHeader 0x42#8 = some (.parseByteWaitHeader 0x42#8) ∧
      (∃ t, exec .reset (held .waitHeader 1 0#16 [0x42#8]) = .next t) := ⟨⟨_, rfl⟩, ⟨_, rfl⟩, by decide, rfl, ⟨_, rfl⟩⟩

/-- Two states that differ only past the frame, at `9 + L = C − 2`. -/
theorem witness_verifyReadsOnlyTheFrame :
    let s := held .waitChecksumH 15 0#16 ([0x42#8, 0x52#8, 0x05#8] ++ List.replicate 12 0#8)
    let t := { s with buf := Memory.write [] s.buf 15 0x77#8 }
    s.cfg = t.cfg ∧ 9 + (declaredLen s).toNat < s.cfg.capacity ∧ s.buf ≠ t.buf ∧
      ∀ k, k ≤ 9 + (declaredLen s).toNat → byteAt t k = byteAt s k := by decide

/-- Each of the seven arms answers. -/
theorem witness_advancingArmsFrame :
    (∃ t, exec (.parseByteWaitStart 0x42#8) (held .waitStart 9 0#16 []) = .next t) ∧
      (∃ t, exec (.parseByteWaitHeader 0x52#8) (held .waitHeader 15 0#16 []) = .next t) ∧
      (∃ t, exec (.parseByteWaitMsgIdL 0x00#8) (held .waitMsgIdL 15 0#16 []) = .next t) ∧
      (∃ t, exec (.parseByteWaitMsgIdH 0x00#8) (held .waitMsgIdH 15 0#16 []) = .next t) ∧
      (∃ t, exec (.parseByteWaitSrcId 0x00#8) (held .waitSrcId 15 0#16 []) = .next t) ∧
      (∃ t, exec (.parseByteWaitDstId 0x00#8) (held .waitDstId 15 0#16 []) = .next t) ∧
      (∃ t, exec (.parseByteWaitChecksumL 0x00#8) (held .waitChecksumL 15 0#16 []) = .next t) :=
  ⟨⟨_, rfl⟩, ⟨_, rfl⟩, ⟨_, rfl⟩, ⟨_, rfl⟩, ⟨_, rfl⟩, ⟨_, rfl⟩, ⟨_, rfl⟩⟩

theorem witness_lengthAndPayloadArmsFrame :
    (∃ t, exec (.parseByteWaitLengthL 0xFF#8) (held .waitLengthL 15 0#16 []) = .next t) ∧
      (∃ t, exec (.parseByteWaitLengthH 0xFF#8) (held .waitLengthH 15 0#16 []) = .next t) ∧
      (∃ t, exec (.parseByteWaitPayload 0xFF#8) (held .waitPayload 15 1#16 []) = .next t) := ⟨⟨_, rfl⟩, ⟨_, rfl⟩, ⟨_, rfl⟩⟩

/-- A frame that checks and one that does not. -/
theorem witness_verdictArmFrame :
    (∃ t, exec (.parseByteWaitChecksumH 0x00#8) (held .waitChecksumH 9 0#16 (f0.take 9)) = .next t ∧ t.resp = some 0) ∧
      (∃ t, exec (.parseByteWaitChecksumH 0x01#8) (held .waitChecksumH 9 0#16 (f0.take 9)) = .next t ∧ t.resp = some 12) :=
  ⟨⟨_, rfl, by decide⟩, ⟨_, rfl, by decide⟩⟩

theorem witness_countersMoveOnlyOnVerdict :
    ∃ t, exec (.parseByte 0x00#8) (held .waitChecksumH 9 0#16 (f0.take 9)) = .next t ∧ t.parsed ≠ 0 := ⟨_, rfl, by decide⟩

theorem witness_configurationIsFixed :
    ∃ t, step ((held .waitStart 0 0#16 []).setPending [0x10000042#32, 0x20000000#32]) = .next t ∧ t.pending = [0x20000000#32] :=
  ⟨_, rfl, by decide⟩

theorem witness_constructionMeetsInvariant : ∃ s, construct (cfgOf 10) = .next s := ⟨_, rfl⟩

/-- A step from the last byte of the longest frame, and the states of every row. -/
theorem witness_everyStepKeepsInvariant :
    FramerInv (lastOfFull.setPending [0x10000000#32]) ∧ ∃ t, step (lastOfFull.setPending [0x10000000#32]) = .next t :=
  ⟨lastOfFull_inv, ⟨_, rfl⟩⟩

theorem witness_noStepFaultsUnderInvariant : FramerInv (lastOfFull.setPending [0x10000000#32]) := lastOfFull_inv

/-- A cursor that reaches `C`. -/
theorem witness_cursorStaysWithinBuffer :
    let s := (held .waitLengthL 15 0#16 []).setPending [0x10000001#32]
    s.cur ≤ s.cfg.capacity ∧ 10 ≤ s.cfg.capacity ∧ ∃ t, step s = .next t ∧ t.cur = 16 :=
  ⟨by decide, by decide, ⟨_, rfl, by decide⟩⟩

theorem witness_bufferStaysCanonical :
    let s := (held .waitMsgIdL 15 0#16 f0).setPending [0x100000FF#32]
    Memory.wf s.cfg.bufInit s.buf = true ∧ (∀ c ∈ s.buf, c.1 < s.cfg.capacity) ∧ ∃ t, step s = .next t :=
  ⟨by decide, by decide, ⟨_, rfl⟩⟩

theorem witness_stateStaysRunning :
    Running (lastOfFull.setPending [0x10000000#32]) ∧ ∃ t, step (lastOfFull.setPending [0x10000000#32]) = .next t :=
  ⟨by decide, ⟨_, rfl⟩⟩

theorem witness_everyReachedStateMeetsInvariant :
    ∃ s t, construct (cfgOf 10) = .next s ∧ Host.Core.run core 1 { s with pending := [0x10000042#32] } = .next t ∧ t.cur = 1 :=
  ⟨_, _, rfl, rfl, by decide⟩

theorem witness_noRunFaults : ∃ s, construct (cfgOf (2 ^ 24)) = .next s := ⟨_, rfl⟩

/-- A `READ_BUF` at the last offset, in the middle of a frame. -/
theorem witness_allowedCommandsAreAnswered :
    let s := (held .waitPayload 9 1#16 (f2.take 9)).setPending [0x3000000F#32]
    FramerInv s ∧ hostMaySend s (.readBuf 15#24) = true ∧ s.pending = encode (.readBuf 15#24) :: [] :=
  ⟨⟨by decide, by decide, by decide, by decide, by decide⟩, by decide, by decide⟩

/-- Two different states that cannot be told apart. -/
theorem witness_hiddenRegistersAreUnobservable :
    Indistinguishable (held .waitStart 0 0#16 f0) (held .waitStart 16 7#16 f0) ∧ held .waitStart 0 0#16 f0 ≠ held .waitStart 16 7#16 f0 :=
  ⟨⟨rfl, rfl, rfl, rfl, rfl, rfl, rfl, fun h => absurd rfl h, fun h => absurd rfl h⟩, by decide⟩

/-- Both causes of a resync. -/
theorem witness_resyncIsSilent :
    let s := held .waitHeader 1 0#16 (f0.take 1)
    let t := held .waitLengthH 3 7#16 [0x42#8, 0x52#8, 0x07#8]
    (FramerInv s ∧ s.st = 2#4 ∧ 0x42#8 ≠ 0x52#8) ∧
      (FramerInv t ∧ t.st = 4#4 ∧ t.cfg.capacity - 10 < t.rem.toNat % 256 + 256 * (0#8).toNat) :=
  ⟨⟨⟨by decide, by decide, by decide, by decide, by decide⟩, by decide, by decide⟩,
    ⟨by decide, by decide, by decide, by decide, by decide⟩, by decide, by decide⟩

/-- The frame `F0`, of length 0, and one of length `C − 10`. -/
theorem witness_frameRoundTrip :
    let s := (held .waitStart 3 7#16 [0x42#8]).setPending (feedWords (framexBytes 0#16 1#16 2#8 3#8 [] 0x9A#16) ++ [0x20000000#32])
    let t := s.setPending (feedWords (framexBytes 6#16 1#16 2#8 3#8 (List.replicate 6 0x42#8) 0#16) ++ [])
    (Memory.wf s.cfg.bufInit s.buf = true ∧ s.st = 1#4 ∧ ([] : List Byte).length = (0#16).toNat ∧
        (0#16).toNat + 10 ≤ s.cfg.capacity ∧ s.pending = feedWords f0 ++ [0x20000000#32]) ∧
      (Memory.wf t.cfg.bufInit t.buf = true ∧ t.st = 1#4 ∧ (List.replicate 6 0x42#8).length = (6#16).toNat ∧
        (6#16).toNat + 10 ≤ t.cfg.capacity ∧
        t.pending = feedWords (framexBytes 6#16 1#16 2#8 3#8 (List.replicate 6 0x42#8) 0#16) ++ []) := by decide

/-- The byte that completes `F0`, and a step in `WAIT_LENGTH_L` that keeps it. -/
theorem witness_heldFrameSurvives :
    let s := held .waitChecksumH 9 0#16 (f0.take 9)
    let u := (held .waitLengthL 2 0#16 f0).setPending [0x20000000#32]
    (FramerInv s ∧ s.st = 11#4 ∧ ∃ t, exec (.parseByte 0x00#8) s = .next t ∧ t.resp = some 0) ∧
      Memory.wf u.cfg.bufInit u.buf = true ∧ FrameHeld f0 u ∧ (∃ t, step u = .next t) ∧
      (u.st = 3#4 → ∀ w ws, u.pending = w :: ws → ∀ b, decode w ≠ .ok (.parseByte b)) := by
  refine ⟨⟨⟨by decide, by decide, by decide, by decide, by decide⟩, by decide, ⟨_, rfl, by decide⟩⟩, by decide,
    ⟨?_, by decide, by decide, by decide⟩, ⟨_, rfl⟩, ?_⟩
  · unfold BufferStarts; decide
  · rintro - w ws ⟨⟩ b
    simp [show decode 0x20000000#32 = .ok .reset by decide]

theorem witness_strayMagicLosesFrame :
    let s := (held .waitStart 16 0#16 f0).setPending [0x10000042#32, 0x10000042#32, 0x10000052#32]
    s.st = 1#4 ∧ 10 ≤ s.cfg.capacity ∧ s.pending = feedWords [0x42#8, 0x42#8, 0x52#8] ++ [] := by decide

end Sys2Proof.Tests
end

section
/-! Construction by cases of the configuration (R7, R8, R101), and the statements of 00_scope. -/

namespace Sys2Proof.Machine

/-- The capacities R7 excludes. -/
theorem construct_of_capacity_outside {c : Config} (h : c.capacity < 10 ∨ 2 ^ 24 < c.capacity) :
    construct c = .refused (.badCapacity c.capacity) :=
  if_pos h

/-- At a capacity R7 allows, only the counter width is left to check (R8). -/
theorem construct_of_capacity_inside {c : Config} (h : ¬ (c.capacity < 10 ∨ 2 ^ 24 < c.capacity)) :
    construct c = if c.cntW < 1 then .refused (.badCounterWidth c.cntW) else .next (State.powerOn c) :=
  if_neg h

/-- No allowed capacity is refused as a bad one: the counter width's refusal carries another reason. -/
theorem construct_ne_badCapacity_of_inside {c : Config} (h : ¬ (c.capacity < 10 ∨ 2 ^ 24 < c.capacity)) (n : Nat) :
    construct c ≠ .refused (.badCapacity n) := by
  rw [construct_of_capacity_inside h]
  split
  case isTrue => simp
  case isFalse => simp

/-- Settles O11: by the two cases of R7's range, each of which fixes what construction can answer. -/
theorem badCapacityRefused : Obligations.BadCapacityRefused := fun _ =>
  ⟨construct_of_capacity_outside,
    fun hrefused => by_contra fun hinside => construct_ne_badCapacity_of_inside hinside _ hrefused⟩

end Sys2Proof.Machine
end

section
/-! The rules of the instructions, said once: which rows there are, how `PARSE_BYTE` reaches an arm (R59), and what an
instruction can answer. -/

namespace Sys2Proof.Machine

theorem exists_armOf_of_armState {i : Instr} {p : ParseState} (h : i.armState = some p) : ∃ b, armOf p b = some i := by
  cases i <;> cases h <;> exact ⟨_, rfl⟩

/-- Every row of the table is one of the five commands or the arm of a running state (R49). -/
theorem instr_command_or_arm (i : Instr) :
    (∃ b, i = .parseByte b) ∨ i = .reset ∨ (∃ a, i = .readBuf a) ∨ i = .readParsed ∨ i = .readErrors ∨
      ∃ p b, armOf p b = some i := by
  cases i
  case parseByte b => exact .inl ⟨b, rfl⟩
  case reset => exact .inr (.inl rfl)
  case readBuf a => exact .inr (.inr (.inl ⟨a, rfl⟩))
  case readParsed => exact .inr (.inr (.inr (.inl rfl)))
  case readErrors => exact .inr (.inr (.inr (.inr (.inl rfl))))
  all_goals exact .inr (.inr (.inr (.inr (.inr ⟨_, exists_armOf_of_armState rfl⟩))))

/-- `PARSE_BYTE` runs the arm that `st` selects, and faults where it selects none (R59, R74). -/
theorem exec_parseByte_eq (b : Byte) (s : State) :
    exec (.parseByte b) s =
      ((ParseState.ofCode s.st).bind (armOf · b)).elim (.fault (.illegalState s.st)) (exec · s) := by
  unfold exec execParseByte
  rcases ParseState.ofCode s.st with _ | p
  · rfl
  · cases p <;> rfl

/-- In the state `p`, `PARSE_BYTE` is the arm of `p` (R59). -/
theorem exec_parseByte_of_st {p : ParseState} {b : Byte} {i : Instr} {s : State} (hst : s.st = p.code)
    (harm : armOf p b = some i) : exec (.parseByte b) s = exec i s := by
  simp [exec_parseByte_eq, hst, harm]

/-- A `PARSE_BYTE` that answers ran the arm of the state `st` names. -/
theorem exec_parseByte_next {b : Byte} {s t : State} (h : exec (.parseByte b) s = .next t) :
    ∃ p i, armOf p b = some i ∧ exec i s = .next t := by
  rw [exec_parseByte_eq] at h
  rcases hi : (ParseState.ofCode s.st).bind (armOf · b) with _ | i
  · simp [hi] at h
  · obtain ⟨p, -, harm⟩ := Option.bind_eq_some_iff.mp hi
    exact ⟨p, i, harm, by simpa [hi] using h⟩

/-- An arm answers in its own state only, and what its body answers (R49). -/
theorem inArm_next_iff {p : ParseState} {s t : State} {body : Result} :
    inArm p s body = .next t ↔ s.st = p.code ∧ body = .next t := by
  unfold inArm
  split <;> simp [*]

/-- What follows an accepted byte answers only when the byte was stored in bounds (R30, R33). -/
theorem andThen_store_next_iff {b : Byte} {s t : State} {k : State → Result} :
    andThen (store b s) k = .next t ↔ s.cur < s.cfg.capacity ∧ k (stored b s) = .next t := by
  rw [store_eq]
  split <;> simp [*]

theorem afterLength_running (c : Nat) (len : Half) : (afterLength c len).running = true := by
  unfold afterLength
  split <;> rfl

theorem afterCount_running (rem : Half) : (afterCount rem).running = true := by
  unfold afterCount
  split <;> rfl

/-- What a byte `b` can lead to from `s` (R62 to R72), and whether it is stored (R33). -/
inductive ByteAnswer (b : Byte) (s : State) : State → Prop where
  /-- In `WAIT_START`, a byte that is not magic. -/
  | ignored (hst : s.st = ParseState.waitStart.code) (hstores : stores s b = false) :
      ByteAnswer b s ((s.setCur 0).advance .waitStart)
  /-- In `WAIT_HEADER`, a byte that is not magic. -/
  | resynced (hst : s.st = ParseState.waitHeader.code) (hstores : stores s b = false) : ByteAnswer b s (resync s)
  /-- In `WAIT_START`, the first byte of a frame. -/
  | begun (hst : s.st = ParseState.waitStart.code) (hstores : stores s b = true) (hroom : 0 < s.cfg.capacity) :
      ByteAnswer b s ((stored b (s.setCur 0)).advance .waitHeader)
  /-- A later byte of the frame, on to the running state `p` with `rem` left at `n`. -/
  | accepted (n : Half) (p : ParseState) (hst : s.st ≠ ParseState.waitStart.code) (hstores : stores s b = true)
      (hroom : s.cur < s.cfg.capacity) (hp : p.running = true) :
      ByteAnswer b s (((stored b s).setRem n).advance p)
  /-- In `WAIT_CHECKSUM_H`, the last byte of the frame. -/
  | judged (valid : Bool) (hst : s.st = ParseState.waitChecksumH.code) (hroom : s.cur < s.cfg.capacity) :
      ByteAnswer b s ((stored b s).verdict valid)

/-- In `WAIT_START` only magic byte 1 is stored (R62). -/
theorem stores_waitStart {s : State} (hst : s.st = ParseState.waitStart.code) (b : Byte) : stores s b = (b == magicB) :=
  if_pos hst

/-- In `WAIT_HEADER` only magic byte 2 is stored (R63). -/
theorem stores_waitHeader {s : State} (hst : s.st = ParseState.waitHeader.code) (b : Byte) : stores s b = (b == magicR) := by
  rw [stores, if_neg (hst ▸ by decide), if_pos hst]

/-- Past the magic every byte is stored (R33). -/
theorem stores_of_ne {s : State} (hstart : s.st ≠ ParseState.waitStart.code) (hheader : s.st ≠ ParseState.waitHeader.code)
    (b : Byte) : stores s b = true := by
  rw [stores, if_neg hstart, if_neg hheader]

/-- What an arm can answer, and that it does so in its own state. -/
theorem exec_arm_next {p : ParseState} {b : Byte} {i : Instr} {s t : State} (harm : armOf p b = some i)
    (h : exec i s = .next t) : s.st = p.code ∧ ByteAnswer b s t := by
  cases p <;> cases harm <;> obtain ⟨hst, h⟩ := inArm_next_iff.mp h <;> refine ⟨hst, ?_⟩
  case waitStart =>
    split at h
    case isTrue hmagic =>
      obtain ⟨hroom, ⟨⟩⟩ := andThen_store_next_iff.mp h
      exact .begun hst (by simp [stores_waitStart hst, hmagic]) hroom
    case isFalse hmagic =>
      cases h
      exact .ignored hst (by simp [stores_waitStart hst, hmagic])
  case waitHeader =>
    split at h
    case isTrue hmagic =>
      obtain ⟨hroom, ⟨⟩⟩ := andThen_store_next_iff.mp h
      exact .accepted s.rem .waitLengthL (hst ▸ by decide) (by simp [stores_waitHeader hst, hmagic]) hroom rfl
    case isFalse hmagic =>
      cases h
      exact .resynced hst (by simp [stores_waitHeader hst, hmagic])
  case waitChecksumH =>
    obtain ⟨hroom, h⟩ := andThen_store_next_iff.mp h
    split at h
    case h_1 => cases h
    case h_2 valid _ =>
      cases h
      exact .judged valid hst hroom
  all_goals
    obtain ⟨hroom, ⟨⟩⟩ := andThen_store_next_iff.mp h
    have hpast : s.st ≠ ParseState.waitStart.code := hst ▸ by decide
    have hstores : stores s b = true := stores_of_ne hpast (hst ▸ by decide) b
  case waitLengthL => exact .accepted (lengthLow b) .waitLengthH hpast hstores hroom rfl
  case waitLengthH => exact .accepted (lengthHigh s.rem b) _ hpast hstores hroom (afterLength_running ..)
  case waitMsgIdL => exact .accepted s.rem .waitMsgIdH hpast hstores hroom rfl
  case waitMsgIdH => exact .accepted s.rem .waitSrcId hpast hstores hroom rfl
  case waitSrcId => exact .accepted s.rem .waitDstId hpast hstores hroom rfl
  case waitDstId => exact .accepted s.rem _ hpast hstores hroom (afterCount_running s.rem)
  case waitPayload => exact .accepted (s.rem - 1#16) _ hpast hstores hroom (afterCount_running _)
  case waitChecksumL => exact .accepted s.rem .waitChecksumH hpast hstores hroom rfl

/-- `READ_BUF` answers by its response only. -/
theorem exec_readBuf_next {a : BitVec 24} {s t : State} (h : exec (.readBuf a) s = .next t) : ∃ v, t = s.respond v := by
  change execReadBuf a s = .next t at h
  unfold execReadBuf at h
  split at h
  case h_1 => cases h
  case h_2 v _ => exact ⟨v.toNat, (Host.Outcome.next.inj h).symm⟩

/-- What an instruction can answer: a read only responds, `RESET` searches anew, and a byte is taken by the arm of the
state it finds. -/
theorem exec_next_cases {i : Instr} {s t : State} (h : exec i s = .next t) :
    (∃ v, t = s.respond v) ∨ t = ((s.setSt .waitStart).setCur 0).respond 0 ∨
      ∃ p b, s.st = p.code ∧ (i = .parseByte b ∨ armOf p b = some i) ∧ ByteAnswer b s t := by
  rcases instr_command_or_arm i with ⟨b, rfl⟩ | rfl | ⟨a, rfl⟩ | rfl | rfl | ⟨p, b, harm⟩
  · obtain ⟨p, i, harm, hi⟩ := exec_parseByte_next h
    obtain ⟨hst, hans⟩ := exec_arm_next harm hi
    exact .inr (.inr ⟨p, b, hst, .inl rfl, hans⟩)
  · exact .inr (.inl (Host.Outcome.next.inj h).symm)
  · exact .inl (exec_readBuf_next h)
  · exact .inl ⟨_, (Host.Outcome.next.inj h).symm⟩
  · exact .inl ⟨_, (Host.Outcome.next.inj h).symm⟩
  · obtain ⟨hst, hans⟩ := exec_arm_next harm h
    exact .inr (.inr ⟨p, b, hst, .inr harm, hans⟩)

/-- A property of states that does not look at the commands to come is kept by every step when every instruction keeps it. -/
theorem step_preserves {P : State → Prop} (hpending : ∀ s ws, P s → P (s.setPending ws))
    (hexec : ∀ i s t, P s → exec i s = .next t → P t) {s t : State} (hs : P s) (h : step s = .next t) : P t := by
  rcases step_next_cases h with ⟨-, rfl⟩ | ⟨w, ws, i, -, -, hi⟩
  · exact hs
  · exact hexec i _ t (hpending s ws hs) hi

end Sys2Proof.Machine
end

section
/-! What every instruction keeps: the statements of 10_state on `cur` (R17), `st` (R16), the counters (R21, R22) and the
configuration (R23). -/

namespace Sys2Proof.Machine

/-- No byte leaves the cursor past the end of the buffer: it moves up only after a store below `C` (R30). -/
theorem ByteAnswer.cur_le {b : Byte} {s t : State} (h : ByteAnswer b s t) (hs : s.cur ≤ s.cfg.capacity) :
    t.cur ≤ t.cfg.capacity := by
  cases h with
  | ignored => exact Nat.zero_le _
  | resynced => exact hs
  | begun _ _ hroom => exact hroom
  | accepted _ _ _ _ hroom => exact hroom
  | judged _ _ hroom => simpa using hroom

theorem exec_cur_le {i : Instr} {s t : State} (hs : s.cur ≤ s.cfg.capacity) (h : exec i s = .next t) :
    t.cur ≤ t.cfg.capacity := by
  rcases exec_next_cases h with ⟨v, rfl⟩ | rfl | ⟨p, b, -, -, hans⟩
  · exact hs
  · exact Nat.zero_le _
  · exact hans.cur_le hs

/-- Settles O48: every instruction keeps the bound, whatever else the state holds; `10 ≤ C` is not needed. -/
theorem cursorStaysWithinBuffer : Obligations.CursorStaysWithinBuffer := fun _ _ hs _ h =>
  step_preserves (P := fun s => s.cur ≤ s.cfg.capacity) (fun _ _ hs => hs) (fun _ _ _ => exec_cur_le) hs h

/-- The codes of the running states are 1 to 11 (R16, R52). -/
theorem code_of_running {p : ParseState} (hp : p.running = true) : 1 ≤ p.code.toNat ∧ p.code.toNat ≤ 11 := by
  revert hp
  cases p <;> decide

theorem running_of_st {p : ParseState} {s : State} (hp : p.running = true) (hst : s.st = p.code) : Running s := by
  unfold Running
  rw [hst]
  exact code_of_running hp

/-- Every byte leads to a running state. -/
theorem ByteAnswer.running {b : Byte} {s t : State} (h : ByteAnswer b s t) : Running t := by
  cases h with
  | ignored => exact running_of_st (p := .waitStart) rfl rfl
  | resynced => exact running_of_st (p := .waitStart) rfl rfl
  | begun => exact running_of_st (p := .waitHeader) rfl rfl
  | accepted _ _ _ _ _ hp => exact running_of_st hp rfl
  | judged => exact running_of_st (p := .waitStart) rfl (State.verdict_st ..)

theorem exec_running {i : Instr} {s t : State} (hs : Running s) (h : exec i s = .next t) : Running t := by
  rcases exec_next_cases h with ⟨v, rfl⟩ | rfl | ⟨p, b, -, -, hans⟩
  · exact hs
  · exact running_of_st (p := .waitStart) rfl rfl
  · exact hans.running

/-- Settles O50: a read keeps `st`, and every other answer writes a running state's code. -/
theorem stateStaysRunning : Obligations.StateStaysRunning := fun _ _ hs h =>
  step_preserves (P := Running) (fun _ _ hs => hs) (fun _ _ _ => exec_running) hs h

theorem ByteAnswer.cfg_pending {b : Byte} {s t : State} (h : ByteAnswer b s t) : t.cfg = s.cfg ∧ t.pending = s.pending := by
  cases h with
  | judged => simp
  | ignored | resynced | begun | accepted => exact ⟨rfl, rfl⟩

/-- No instruction writes the configuration or the commands to come (R23). -/
theorem exec_cfg_pending {i : Instr} {s t : State} (h : exec i s = .next t) : t.cfg = s.cfg ∧ t.pending = s.pending := by
  rcases exec_next_cases h with ⟨v, rfl⟩ | rfl | ⟨p, b, -, -, hans⟩
  · exact ⟨rfl, rfl⟩
  · exact ⟨rfl, rfl⟩
  · exact hans.cfg_pending

/-- Settles O43: an instruction writes neither field, so only the step itself takes a command. -/
theorem configurationIsFixed : Obligations.ConfigurationIsFixed := by
  intro s t h
  rcases step_next_cases h with ⟨hnil, rfl⟩ | ⟨w, ws, i, hcons, -, hi⟩
  · simp [hnil]
  · simpa [hcons] using exec_cfg_pending hi

/-- A byte moves no counter, or it ends a frame and moves the one its verdict names (R72). -/
theorem ByteAnswer.counters {b : Byte} {s t : State} (h : ByteAnswer b s t) :
    (t.parsed = s.parsed ∧ t.errors = s.errors) ∨
      (s.st = ParseState.waitChecksumH.code ∧ ∃ valid, t = (stored b s).verdict valid) := by
  cases h with
  | judged valid hst => exact .inr ⟨hst, valid, rfl⟩
  | ignored | resynced | begun | accepted => exact .inl ⟨rfl, rfl⟩

/-- The verdict counts one frame, in the counter that its response names (R72, R73). -/
theorem verdict_counts (s : State) (valid : Bool) :
    ((s.verdict valid).resp = some 0 ∧ (s.verdict valid).parsed = (s.parsed + 1) % 2 ^ s.cfg.cntW ∧
        (s.verdict valid).errors = s.errors) ∨
      ((s.verdict valid).resp = some 12 ∧ (s.verdict valid).errors = (s.errors + 1) % 2 ^ s.cfg.cntW ∧
        (s.verdict valid).parsed = s.parsed) := by
  cases valid with
  | true => exact .inl ⟨rfl, rfl, rfl⟩
  | false => exact .inr ⟨rfl, rfl, rfl⟩

/-- Settles O42: only the verdict on a byte writes a counter, and the arm that gives it runs in `WAIT_CHECKSUM_H`. -/
theorem countersMoveOnlyOnVerdict : Obligations.CountersMoveOnlyOnVerdict := by
  intro i s t h
  rcases exec_next_cases h with ⟨v, rfl⟩ | rfl | ⟨p, b, hp, hi, hans⟩
  · exact .inl ⟨rfl, rfl⟩
  · exact .inl ⟨rfl, rfl⟩
  · rcases hans.counters with hkept | ⟨hst, valid, rfl⟩
    · exact .inl hkept
    · obtain rfl : p = .waitChecksumH := code_inj.mp (hp.symm.trans hst)
      have hrow : i = .parseByte b ∨ i = .parseByteWaitChecksumH b := hi.imp_right fun harm => (Option.some.inj harm).symm
      exact .inr ⟨hst, State.verdict_st .., ⟨b, hrow⟩, verdict_counts (stored b s) valid⟩

end Sys2Proof.Machine
end

section
/-! The response is an output (R20): reads depend on the configuration and the cells only, and every answer responds anew. -/

namespace Sys2Proof.Machine

/-- A read depends on the configuration and the cells only. -/
theorem memRead_congr {s t : State} (hc : t.cfg = s.cfg) (hb : t.buf = s.buf) (k : Nat) : memRead k t = memRead k s := by
  unfold memRead
  rw [hc, byteAt_congr hc hb]

theorem memReadRange_congr {s t : State} (hc : t.cfg = s.cfg) (hb : t.buf = s.buf) (k n : Nat) :
    memReadRange k n t = memReadRange k n s := by
  induction n generalizing k with
  | zero => rfl
  | succ n ih => simp only [memReadRange, memRead_congr hc hb, ih]

theorem memReadHalf_congr {s t : State} (hc : t.cfg = s.cfg) (hb : t.buf = s.buf) (k : Nat) :
    memReadHalf k t = memReadHalf k s := by
  simp only [memReadHalf, memRead_congr hc hb]

/-- `VERIFY` depends on the configuration and the cells only (R61). -/
theorem verify_congr {s t : State} (hc : t.cfg = s.cfg) (hb : t.buf = s.buf) : verify t = verify s := by
  simp only [verify, memReadHalf_congr hc hb, memReadRange_congr hc hb, hc]

/-- Storing a byte does not read the response: what follows it may differ only where it reads it. -/
theorem andThen_store_resp {b : Byte} {s : State} {r : Option Nat} {k : State → Result}
    (hk : k (stored b { s with resp := r }) = k (stored b s)) :
    andThen (store b { s with resp := r }) k = andThen (store b s) k := by
  rw [store_eq, store_eq]
  split
  case isTrue => exact hk
  case isFalse => rfl

/-- No arm reads the response. -/
theorem exec_arm_resp {p : ParseState} {b : Byte} {i : Instr} (harm : armOf p b = some i) (s : State) (r : Option Nat) :
    exec i { s with resp := r } = exec i s := by
  cases p <;> cases harm <;> refine congrArg (inArm _ s) ?_
  case waitStart => exact ite_congr rfl (fun _ => andThen_store_resp (s := s.setCur 0) rfl) fun _ => rfl
  case waitHeader => exact ite_congr rfl (fun _ => andThen_store_resp rfl) fun _ => rfl
  case waitChecksumH =>
    refine andThen_store_resp ?_
    have hverify : verify (stored b { s with resp := r }) = verify (stored b s) := verify_congr rfl rfl
    simp only [hverify]
    cases verify (stored b s) <;> rfl
  all_goals exact andThen_store_resp rfl

/-- Settles O32: every row responds anew, and nothing before that reads the field. -/
theorem responseIsNeverRead : Obligations.ResponseIsNeverRead := by
  intro i s r
  rcases instr_command_or_arm i with ⟨b, rfl⟩ | rfl | ⟨a, rfl⟩ | rfl | rfl | ⟨p, b, harm⟩
  · rw [exec_parseByte_eq, exec_parseByte_eq]
    rcases hi : (ParseState.ofCode s.st).bind (armOf · b) with _ | i
    · rfl
    · obtain ⟨p, -, harm⟩ := Option.bind_eq_some_iff.mp hi
      exact exec_arm_resp harm s r
  · rfl
  · rfl
  · rfl
  · rfl
  · exact exec_arm_resp harm s r

end Sys2Proof.Machine
end

section
/-! What R17 and R18 call unobservable: `cur` in `WAIT_START` and `rem` before a length byte lead to no other outcome. -/

namespace Sys2Proof.Machine

theorem Indistinguishable.refl (s : State) : Indistinguishable s s :=
  ⟨rfl, rfl, rfl, rfl, rfl, rfl, rfl, fun _ => rfl, fun _ _ _ => rfl⟩

/-- Outcomes of one kind, with one reason, or with next states that cannot be told apart. -/
def SameOutcome (o o' : Result) : Prop :=
  match o, o' with
  | .next s, .next t => Indistinguishable s t
  | .fault f, .fault g => f = g
  | .refused a, .refused b => a = b
  | _, _ => False

theorem SameOutcome.refl (o : Result) : SameOutcome o o := by
  cases o with
  | next s => exact Indistinguishable.refl s
  | fault f => exact Eq.refl f
  | refused r => exact Eq.refl r

/-- Two states that cannot be told apart differ only in the three states before a length byte. -/
theorem Indistinguishable.eq_or_hidden {s t : State} (h : Indistinguishable s t) :
    s = t ∨ s.st = ParseState.waitStart.code ∨ s.st = ParseState.waitHeader.code ∨ s.st = ParseState.waitLengthL.code := by
  refine or_iff_not_imp_right.mpr fun hvisible => ?_
  obtain ⟨hstart, hheader, hlength⟩ := by simpa only [not_or] using hvisible
  obtain ⟨hcfg, hst, hparsed, herrors, hbuf, hpending, hresp, hcur, hrem⟩ := h
  cases s
  cases t
  simp_all

theorem Indistinguishable.setPending {s t : State} (h : Indistinguishable s t) (ws : List Word) :
    Indistinguishable (s.setPending ws) (t.setPending ws) :=
  { h with pending := rfl }

theorem Indistinguishable.respond {s t : State} (h : Indistinguishable s t) (v : Nat) :
    Indistinguishable (s.respond v) (t.respond v) :=
  { h with resp := rfl }

/-- With one cursor, `rem` is all that differs, and in a state before the length it stays hidden. -/
theorem Indistinguishable.advance_header {s t : State} (h : Indistinguishable s t) (hcur : s.cur = t.cur) {p : ParseState}
    (hp : p = .waitStart ∨ p = .waitHeader ∨ p = .waitLengthL) : Indistinguishable (s.advance p) (t.advance p) where
  cfg := h.cfg
  st := rfl
  parsed := h.parsed
  errors := h.errors
  buf := h.buf
  pending := h.pending
  resp := rfl
  cur _ := hcur
  rem hstart hheader hlength := by
    rcases hp with rfl | rfl | rfl
    · exact absurd rfl hstart
    · exact absurd rfl hheader
    · exact absurd rfl hlength

/-- The cursor reset, as `WAIT_START` and `RESET` do it, leaves `rem` as all that can differ. -/
theorem Indistinguishable.setCur {s t : State} (h : Indistinguishable s t) (n : Nat) :
    Indistinguishable (s.setCur n) (t.setCur n) :=
  { h with cur := fun _ => rfl }

theorem Indistinguishable.stored {s t : State} (h : Indistinguishable s t) (hcur : s.cur = t.cur) (b : Byte) :
    Indistinguishable (stored b s) (stored b t) :=
  { h with
    buf := by simp [h.cfg, h.buf, hcur]
    cur := fun _ => congrArg (· + 1) hcur }

/-- The length's low byte overwrites all that can differ in `WAIT_LENGTH_L`. -/
theorem Indistinguishable.setRem_advance {s t : State} (h : Indistinguishable s t) (hcur : s.cur = t.cur) (n : Half)
    (p : ParseState) : Indistinguishable ((s.setRem n).advance p) ((t.setRem n).advance p) :=
  ⟨h.cfg, rfl, h.parsed, h.errors, h.buf, h.pending, rfl, fun _ => hcur, fun _ _ _ => rfl⟩

/-- Storing at one cursor faults in both states alike, or goes on from states again indistinguishable (R30). -/
theorem sameOutcome_andThen_store {b : Byte} {s t : State} {k : State → Result} (h : Indistinguishable s t)
    (hcur : s.cur = t.cur) (hk : SameOutcome (k (stored b s)) (k (stored b t))) :
    SameOutcome (andThen (store b s) k) (andThen (store b t) k) := by
  rw [store_eq, store_eq, ← h.cfg, ← hcur]
  split
  case isTrue => exact hk
  case isFalse => exact SameOutcome.refl _

theorem exec_waitStart_sameOutcome {s t : State} (h : Indistinguishable s t) (hst : s.st = ParseState.waitStart.code)
    (b : Byte) : SameOutcome (exec (.parseByteWaitStart b) s) (exec (.parseByteWaitStart b) t) := by
  have h0 := h.setCur 0
  simp only [exec, execParseByteWaitStart, inArm_of_eq hst, inArm_of_eq (h.st ▸ hst)]
  split
  · exact sameOutcome_andThen_store h0 rfl ((h0.stored rfl b).advance_header rfl (.inr (.inl rfl)))
  · exact h0.advance_header rfl (.inl rfl)

theorem exec_waitHeader_sameOutcome {s t : State} (h : Indistinguishable s t) (hst : s.st = ParseState.waitHeader.code)
    (b : Byte) : SameOutcome (exec (.parseByteWaitHeader b) s) (exec (.parseByteWaitHeader b) t) := by
  have hcur : s.cur = t.cur := h.cur (hst ▸ by decide)
  simp only [exec, execParseByteWaitHeader, inArm_of_eq hst, inArm_of_eq (h.st ▸ hst)]
  split
  · exact sameOutcome_andThen_store h hcur
      ((h.stored hcur b).advance_header (congrArg (· + 1) hcur) (.inr (.inr rfl)))
  · exact h.advance_header hcur (.inl rfl)

theorem exec_waitLengthL_sameOutcome {s t : State} (h : Indistinguishable s t) (hst : s.st = ParseState.waitLengthL.code)
    (b : Byte) : SameOutcome (exec (.parseByteWaitLengthL b) s) (exec (.parseByteWaitLengthL b) t) := by
  have hcur : s.cur = t.cur := h.cur (hst ▸ by decide)
  simp only [exec, execParseByteWaitLengthL, inArm_of_eq hst, inArm_of_eq (h.st ▸ hst)]
  exact sameOutcome_andThen_store h hcur
    ((h.stored hcur b).setRem_advance (congrArg (· + 1) hcur) (lengthLow b) .waitLengthH)

/-- A byte meets a hidden register only in the arms of the three states before a length byte (R59). -/
theorem exec_parseByte_sameOutcome {s t : State} (h : Indistinguishable s t) (b : Byte) :
    SameOutcome (exec (.parseByte b) s) (exec (.parseByte b) t) := by
  rcases h.eq_or_hidden with rfl | hst | hst | hst
  · exact SameOutcome.refl _
  · rw [exec_parseByte_of_st hst rfl, exec_parseByte_of_st (h.st ▸ hst) rfl]
    exact exec_waitStart_sameOutcome h hst b
  · rw [exec_parseByte_of_st hst rfl, exec_parseByte_of_st (h.st ▸ hst) rfl]
    exact exec_waitHeader_sameOutcome h hst b
  · rw [exec_parseByte_of_st hst rfl, exec_parseByte_of_st (h.st ▸ hst) rfl]
    exact exec_waitLengthL_sameOutcome h hst b

theorem exec_readBuf_sameOutcome {s t : State} (h : Indistinguishable s t) (a : BitVec 24) :
    SameOutcome (exec (.readBuf a) s) (exec (.readBuf a) t) := by
  simp only [exec, execReadBuf, memRead_congr h.cfg h.buf]
  split
  · exact SameOutcome.refl _
  · exact h.respond _

/-- No command row tells the two states apart. -/
theorem exec_command_sameOutcome {i : Instr} {s t : State} (hi : i.armState = none) (h : Indistinguishable s t) :
    SameOutcome (exec i s) (exec i t) := by
  cases i
  case parseByte b => exact exec_parseByte_sameOutcome h b
  case reset =>
    exact ⟨h.cfg, rfl, h.parsed, h.errors, h.buf, h.pending, rfl, fun _ => rfl, fun hstart => absurd rfl hstart⟩
  case readBuf a => exact exec_readBuf_sameOutcome h a
  case readParsed =>
    show Indistinguishable (s.respond s.parsed) (t.respond t.parsed)
    exact h.parsed ▸ h.respond s.parsed
  case readErrors =>
    show Indistinguishable (s.respond s.errors) (t.respond t.errors)
    exact h.errors ▸ h.respond s.errors
  all_goals cases hi

/-- Settles O53: a step takes the same command in both states, and no command row tells them apart. -/
theorem hiddenRegistersAreUnobservable : Obligations.HiddenRegistersAreUnobservable := by
  intro s t h
  show SameOutcome (step s) (step t)
  unfold step
  rw [← h.pending]
  split
  · exact h
  · split
    · exact SameOutcome.refl _
    · next hdecode => exact exec_command_sameOutcome (decode_armState hdecode) (h.setPending _)

end Sys2Proof.Machine
end

section
/-! The memory operations of 20_memory: what a read and a write of the buffer answer (R30, R31), and the 16-bit fields (R32). -/

namespace Sys2Proof.Machine

/-- Removing an entry moves no other offset, in canonical form or not. -/
theorem Memory.read_drop_of_ne (init : List Byte) (m : List Host.Cell) {k j : Nat} (hne : j ≠ k) :
    Memory.read init (Memory.drop m k) j = Memory.read init m j := by
  induction m with
  | nil => rfl
  | cons c rest ih =>
    obtain ⟨a, u⟩ := c
    unfold Memory.drop
    split
    case isTrue hak => simp [Memory.read, hak, hne.symm]
    case isFalse => simp only [Memory.read, ih]

/-- A write moves no other offset, in canonical form or not. -/
theorem Memory.read_write_of_ne (init : List Byte) (m : List Host.Cell) {k j : Nat} (v : Byte) (hne : j ≠ k) :
    Memory.read init (Memory.write init m k v) j = Memory.read init m j := by
  unfold Memory.write
  split
  · exact Memory.read_drop_of_ne init m hne
  · rw [Memory.read_put, if_neg hne]

/-- `MemWrite` below `C` lists the byte (R30). -/
theorem memWrite_of_lt {s : State} {k : Nat} (h : k < s.cfg.capacity) (v : Byte) :
    memWrite k v s = .next (s.setBuf (Memory.write s.cfg.bufInit s.buf k v)) :=
  if_pos h

/-- `MemWrite` from `C` on faults (R30). -/
theorem memWrite_of_ge {s : State} {k : Nat} (h : s.cfg.capacity ≤ k) (v : Byte) :
    memWrite k v s = .fault (.bufferOverrun k) :=
  if_neg (Nat.not_lt.mpr h)

/-- Settles O33: in bounds the answer is the written buffer, which reads and stays canonical as a write does. -/
theorem memWriteIsBoundsChecked : Obligations.MemWriteIsBoundsChecked := fun _ k v hwf =>
  ⟨fun hlt => ⟨_, memWrite_of_lt hlt v, rfl, Memory.wf_write k v hwf, fun j => Memory.read_write hwf k j v⟩,
    fun hge => memWrite_of_ge hge v⟩

/-- Settles O34: the two cases of the range check. -/
theorem memReadIsRangeChecked : Obligations.MemReadIsRangeChecked := fun _ _ => ⟨memRead_of_lt, memRead_of_ge⟩

/-- The little-endian value is the high byte set before the low one. -/
theorem leHalf_eq_append (lo hi : Byte) : leHalf lo hi = hi ++ lo := by
  rw [leHalf, BitVec.append_def, BitVec.shiftLeftZeroExtend_eq, BitVec.setWidth'_eq, BitVec.or_comm]

/-- Settles O35: the two bytes occupy disjoint bits, so setting them side by side adds them. -/
theorem fieldsAreLittleEndian : Obligations.FieldsAreLittleEndian := fun lo hi => by
  rw [leHalf_eq_append, BitVec.toNat_append, ← Nat.shiftLeft_add_eq_or_of_lt lo.isLt, Nat.shiftLeft_eq]
  omega

end Sys2Proof.Machine
end

section
/-! What a step runs (R36, R40), and that the read commands have no side effect (R37). -/

namespace Sys2Proof.Machine

/-- A step takes the oldest word and runs what it decodes to (R40). -/
theorem step_of_decode {s : State} {w : Word} {ws : List Word} {i : Instr} (hpending : s.pending = w :: ws)
    (hdecode : decode w = .ok i) : step s = exec i (s.setPending ws) := by
  unfold step
  rw [hpending]
  simp only [hdecode]

/-- Settles O8: the state with the word taken differs in the commands to come only. -/
theorem stepRunsDecodedCommand : Obligations.StepRunsDecodedCommand := fun _ _ _ _ => step_of_decode

/-- The read commands (R37). -/
def IsRead (i : Instr) : Prop := i = .readParsed ∨ i = .readErrors ∨ ∃ a, i = .readBuf a

/-- A read command answers by its response only (R37). -/
theorem IsRead.exec_next {i : Instr} (hi : IsRead i) {s t : State} (h : exec i s = .next t) : ∃ v, t = s.respond v := by
  rcases hi with rfl | rfl | ⟨a, rfl⟩
  · exact ⟨_, (Host.Outcome.next.inj h).symm⟩
  · exact ⟨_, (Host.Outcome.next.inj h).symm⟩
  · exact exec_readBuf_next h

/-- Settles O31: a read writes the response only, and no instruction reads it. -/
theorem readCommandsHaveNoSideEffect : Obligations.ReadCommandsHaveNoSideEffect := by
  intro s t i hi h
  obtain ⟨v, rfl⟩ := IsRead.exec_next hi h
  have hsame (j : Instr) : exec j (s.respond v) = exec j s := responseIsNeverRead j s (some v)
  exact ⟨rfl, (hsame i).trans h, hsame⟩

end Sys2Proof.Machine
end

section
/-! Where a byte is stored, and what every instruction leaves of the buffer: the overrun (R30), the frame (R29, R33, R35) and the
canonical form (R28). -/

namespace Sys2Proof.Machine

theorem storeOffset_of_waitStart {s : State} (hst : s.st = ParseState.waitStart.code) : storeOffset s = 0 := if_pos hst

theorem storeOffset_of_ne {s : State} (hst : s.st ≠ ParseState.waitStart.code) : storeOffset s = s.cur := if_neg hst

/-- A byte to be stored at or above `C` faults, whatever would follow it (R30). -/
theorem andThen_store_of_ge {s : State} (h : s.cfg.capacity ≤ s.cur) (b : Byte) (k : State → Result) :
    andThen (store b s) k = .fault (.bufferOverrun s.cur) := by
  rw [store_eq, if_neg (Nat.not_lt.mpr h), andThen_fault]

/-- The selected arm faults when it would store its byte at or above `C` (R30, R62 to R72). -/
theorem exec_arm_of_overrun {p : ParseState} {b : Byte} {i : Instr} {s : State} (hst : s.st = p.code)
    (harm : armOf p b = some i) (hstores : stores s b = true) (hfull : s.cfg.capacity ≤ storeOffset s) :
    exec i s = .fault (.bufferOverrun (storeOffset s)) := by
  by_cases hstart : p = .waitStart
  case pos =>
    subst hstart
    cases harm
    have hmagic : b = magicB := by simpa [stores_waitStart hst] using hstores
    rw [storeOffset_of_waitStart hst] at hfull ⊢
    refine (inArm_of_eq hst _).trans ((if_pos hmagic).trans ?_)
    exact andThen_store_of_ge (s := s.setCur 0) hfull b _
  case neg =>
    rw [storeOffset_of_ne (by rwa [hst, Ne, code_inj])] at hfull ⊢
    cases p <;> cases harm <;> refine (inArm_of_eq hst _).trans ?_
    case waitStart => exact absurd rfl hstart
    case waitHeader =>
      have hmagic : b = magicR := by simpa [stores_waitHeader hst] using hstores
      exact (if_pos hmagic).trans (andThen_store_of_ge hfull b _)
    all_goals exact andThen_store_of_ge hfull b _

/-- The running states are those with an arm (R16, R59). -/
theorem isSome_armOf (p : ParseState) (b : Byte) : (armOf p b).isSome = p.running := by
  cases p <;> rfl

/-- The codes 1 to 11 are those of the running states (R16, R52). -/
theorem map_running_ofCode :
    ∀ c : BitVec 4, 1 ≤ c.toNat ∧ c.toNat ≤ 11 → (ParseState.ofCode c).map ParseState.running = some true := by
  decide

/-- In a running state `st` selects an arm (R59). -/
theorem Running.exists_arm {s : State} (hs : Running s) (b : Byte) : ∃ p i, s.st = p.code ∧ armOf p b = some i := by
  obtain ⟨p, hp, hrunning⟩ := Option.map_eq_some_iff.mp (map_running_ofCode s.st hs)
  obtain ⟨i, harm⟩ := Option.isSome_iff_exists.mp ((isSome_armOf p b).trans hrunning)
  exact ⟨p, i, ofCode_eq_some.mp hp, harm⟩

/-- Settles O27: a running state selects an arm, and that arm faults. -/
theorem storeOutOfBoundsFaults : Obligations.StoreOutOfBoundsFaults := by
  intro s b hs hstores hfull
  obtain ⟨p, i, hst, harm⟩ := Running.exists_arm hs b
  rw [exec_parseByte_of_st hst harm]
  exact exec_arm_of_overrun hst harm hstores hfull

/-- What a byte does to the cells: nothing when it is not stored, else one write below `C` at its offset (R33). -/
theorem ByteAnswer.buf {b : Byte} {s t : State} (h : ByteAnswer b s t) :
    (stores s b = false ∧ t.buf = s.buf) ∨
      (stores s b = true ∧ storeOffset s < s.cfg.capacity ∧
        t.buf = Memory.write s.cfg.bufInit s.buf (storeOffset s) b) := by
  cases h with
  | ignored _ hstores => exact .inl ⟨hstores, rfl⟩
  | resynced _ hstores => exact .inl ⟨hstores, rfl⟩
  | begun hst hstores hroom =>
    rw [storeOffset_of_waitStart hst]
    exact .inr ⟨hstores, hroom, rfl⟩
  | accepted _ _ hst hstores hroom =>
    rw [storeOffset_of_ne hst]
    exact .inr ⟨hstores, hroom, rfl⟩
  | judged _ hst hroom =>
    have hpast : s.st ≠ ParseState.waitStart.code := hst ▸ by decide
    rw [storeOffset_of_ne hpast]
    exact .inr ⟨stores_of_ne hpast (hst ▸ by decide) b, hroom, by simp⟩

/-- What any instruction does to the cells: nothing, or one write below `C` at the store offset (R29, R30). -/
theorem exec_buf {i : Instr} {s t : State} (h : exec i s = .next t) :
    t.buf = s.buf ∨
      ∃ v, storeOffset s < s.cfg.capacity ∧ t.buf = Memory.write s.cfg.bufInit s.buf (storeOffset s) v := by
  rcases exec_next_cases h with ⟨v, rfl⟩ | rfl | ⟨p, b, -, -, hans⟩
  · exact .inl rfl
  · exact .inl rfl
  · exact hans.buf.imp And.right fun ⟨_, hwrite⟩ => ⟨b, hwrite⟩

/-- The rows that take the byte `b` answer as a byte does (R59). -/
theorem byteAnswer_of_exec {i : Instr} {b : Byte} {s t : State} (hi : i = .parseByte b ∨ ∃ p, armOf p b = some i)
    (h : exec i s = .next t) : ByteAnswer b s t := by
  rcases hi with rfl | ⟨p, harm⟩
  · obtain ⟨p, i, harm, harmNext⟩ := exec_parseByte_next h
    exact (exec_arm_next harm harmNext).2
  · exact (exec_arm_next harm h).2

/-- Every byte but the one at the store offset reads as before (R29). -/
theorem exec_byteAt_of_ne {i : Instr} {s t : State} (h : exec i s = .next t) {k : Nat} (hne : k ≠ storeOffset s) :
    byteAt t k = byteAt s k := by
  obtain ⟨hcfg, -⟩ := exec_cfg_pending h
  rcases exec_buf h with hbuf | ⟨v, -, hbuf⟩
  · exact byteAt_congr hcfg hbuf k
  · rw [byteAt, hcfg, hbuf]
    exact Memory.read_write_of_ne _ _ v hne

/-- A byte that is not stored leaves every byte of the buffer (R35). -/
theorem ByteAnswer.byteAt_of_not_stores {b : Byte} {s t : State} (h : ByteAnswer b s t) (hstores : stores s b = false)
    (k : Nat) : byteAt t k = byteAt s k := by
  rcases h.buf with ⟨-, hbuf⟩ | ⟨hstored, -, -⟩
  · exact byteAt_congr h.cfg_pending.1 hbuf k
  · exact absurd hstored (hstores ▸ by decide)

/-- Settles O37: by what each kind of row does to the cells. -/
theorem bufferFrame : Obligations.BufferFrame := by
  intro i s t h
  refine ⟨fun k => exec_byteAt_of_ne h, fun b hi hstores => ?_, fun hi => ?_⟩
  · exact (byteAnswer_of_exec hi h).byteAt_of_not_stores hstores
  · rcases hi with rfl | hread
    · cases h
      exact fun _ => rfl
    · obtain ⟨v, rfl⟩ := IsRead.exec_next hread h
      exact fun _ => rfl

/-- The cells are canonical and lie below `C` (R28). -/
def CellsWf (s : State) : Prop := Memory.wf s.cfg.bufInit s.buf = true ∧ ∀ c ∈ s.buf, c.1 < s.cfg.capacity

/-- The cells' form is kept by a write, and their bound by a write below `C`. -/
theorem exec_cellsWf {i : Instr} {s t : State} (hs : CellsWf s) (h : exec i s = .next t) : CellsWf t := by
  obtain ⟨hwf, hbelow⟩ := hs
  obtain ⟨hcfg, -⟩ := exec_cfg_pending h
  unfold CellsWf
  rw [hcfg]
  rcases exec_buf h with hbuf | ⟨v, hroom, hbuf⟩ <;> rw [hbuf]
  · exact ⟨hwf, hbelow⟩
  · refine ⟨Memory.wf_write _ v hwf, fun c hc => ?_⟩
    rcases Memory.mem_write hc with hoffset | hlisted
    · exact hoffset ▸ hroom
    · exact hbelow c hlisted

/-- Settles O49: every instruction keeps the form, and a step only takes a command besides. -/
theorem bufferStaysCanonical : Obligations.BufferStaysCanonical := fun _ _ hwf hbelow h =>
  step_preserves (P := CellsWf) (fun _ _ hs => hs) (fun _ _ _ => exec_cellsWf) ⟨hwf, hbelow⟩ h

end Sys2Proof.Machine
end

section
/-! The CMD word of 30_encoding: its fields (R46, R47), the decoder and the encoder as inverses (R49, R50), the opcode map. -/

namespace Sys2Proof

/-- The three fields make up the word (R46). -/
theorem cmdFields_append (w : Word) : cmdOp w ++ cmdRsv w ++ cmdOperand w = w := by
  have hhead : cmdOp w ++ cmdRsv w = w.extractLsb' 24 8 := BitVec.extractLsb'_append_extractLsb'_eq_extractLsb' rfl
  rw [hhead]
  exact (BitVec.extractLsb'_append_extractLsb'_eq_extractLsb' rfl).trans BitVec.extractLsb'_eq_self

@[simp] theorem cmdOp_cmdWord (op : BitVec 4) (x : BitVec 24) : cmdOp (cmdWord op x) = op :=
  (BitVec.extractLsb'_append_eq_of_le (by decide)).trans BitVec.extractLsb'_append_eq_left

@[simp] theorem cmdRsv_cmdWord (op : BitVec 4) (x : BitVec 24) : cmdRsv (cmdWord op x) = 0#4 :=
  (BitVec.extractLsb'_append_eq_of_le (by decide)).trans BitVec.extractLsb'_append_eq_right

@[simp] theorem cmdOperand_cmdWord (op : BitVec 4) (x : BitVec 24) : cmdOperand (cmdWord op x) = x :=
  BitVec.extractLsb'_append_eq_right

/-- A word with `rsv` 0 is put together from its other fields (R46). -/
theorem cmdWord_of_rsv {w : Word} (h : cmdRsv w = 0#4) : cmdWord (cmdOp w) (cmdOperand w) = w := by
  rw [cmdWord, ← h]
  exact cmdFields_append w

/-- `PARSE_BYTE`'s operand is its byte, below 16 bits that are 0 (R47). -/
theorem setWidth_byte (b : Byte) : b.setWidth 24 = 0#16 ++ b := BitVec.setWidth_eq_append (by decide)

/-- The operand is the input byte, below the bits `PARSE_BYTE` needs 0 (R47). -/
theorem cmdByteZeros_append_cmdByte (w : Word) : cmdByteZeros w ++ cmdByte w = cmdOperand w :=
  BitVec.extractLsb'_append_extractLsb'_eq_extractLsb' rfl

/-- The byte's bits of the operand (R47). -/
theorem cmdByte_eq (w : Word) : cmdByte w = (cmdOperand w).extractLsb' 0 8 :=
  (BitVec.extractLsb'_extractLsb'_of_le (by decide)).symm

/-- The other bits of the operand (R47). -/
theorem cmdByteZeros_eq (w : Word) : cmdByteZeros w = (cmdOperand w).extractLsb' 8 16 :=
  (BitVec.extractLsb'_extractLsb'_of_le (by decide)).symm

@[simp] theorem cmdByte_cmdWord (op : BitVec 4) (b : Byte) : cmdByte (cmdWord op (b.setWidth 24)) = b := by
  rw [cmdByte_eq, cmdOperand_cmdWord, setWidth_byte]
  exact BitVec.extractLsb'_append_eq_right

@[simp] theorem cmdByteZeros_cmdWord (op : BitVec 4) (b : Byte) : cmdByteZeros (cmdWord op (b.setWidth 24)) = 0#16 := by
  rw [cmdByteZeros_eq, cmdOperand_cmdWord, setWidth_byte]
  exact BitVec.extractLsb'_append_eq_left

/-- The fields of a word of the command row `i` beside `rsv` (R46, R47). -/
def IsCommandWord (w : Word) (i : Instr) : Prop :=
  (cmdOp w = 1#4 ∧ cmdByteZeros w = 0#16 ∧ .parseByte (cmdByte w) = i) ∨
    (cmdOp w = 2#4 ∧ cmdOperand w = 0#24 ∧ .reset = i) ∨
    (cmdOp w = 3#4 ∧ .readBuf (cmdOperand w) = i) ∨
    (cmdOp w = 4#4 ∧ cmdOperand w = 0#24 ∧ .readParsed = i) ∨
    (cmdOp w = 5#4 ∧ cmdOperand w = 0#24 ∧ .readErrors = i)

theorem requireZero_eq_ok {zeros : Bool} {i j : Instr} : requireZero zeros i = .ok j ↔ zeros = true ∧ i = j := by
  cases zeros <;> simp [requireZero]

/-- What the decoder answers, by the fields (R49, R50). -/
theorem decode_eq_ok_iff {w : Word} {i : Instr} : decode w = .ok i ↔ cmdRsv w = 0#4 ∧ IsCommandWord w i := by
  unfold decode IsCommandWord
  by_cases hrsv : cmdRsv w = 0#4
  case neg =>
    simp only [hrsv, if_false, false_and]
    split <;> simp
  case pos =>
    simp only [← BitVec.toNat_inj (x := cmdOp w), hrsv, if_true, true_and]
    split
    case h_6 h1 h2 h3 h4 h5 => simp [show ¬_ from h1, show ¬_ from h2, show ¬_ from h3, show ¬_ from h4, show ¬_ from h5]
    all_goals simp [*, requireZero_eq_ok]

theorem decode_encode {i : Instr} (hi : i.armState = none) : decode (encode i) = .ok i := by
  refine decode_eq_ok_iff.mpr ?_
  cases i
  case parseByte b => simp [IsCommandWord, encode]
  case reset => simp [IsCommandWord, encode]
  case readBuf addr => simp [IsCommandWord, encode]
  case readParsed => simp [IsCommandWord, encode]
  case readErrors => simp [IsCommandWord, encode]
  all_goals cases hi

theorem encode_of_decode {w : Word} {i : Instr} (h : decode w = .ok i) : encode i = w := by
  obtain ⟨hrsv, hfields⟩ := decode_eq_ok_iff.mp h
  rw [← cmdWord_of_rsv hrsv]
  rcases hfields with ⟨hop, hzeros, rfl⟩ | ⟨hop, hzeros, rfl⟩ | ⟨hop, rfl⟩ | ⟨hop, hzeros, rfl⟩ | ⟨hop, hzeros, rfl⟩
  · rw [encode, hop, setWidth_byte, ← hzeros, cmdByteZeros_append_cmdByte]
  · rw [encode, hop, hzeros]
  · rw [encode, hop]
  · rw [encode, hop, hzeros]
  · rw [encode, hop, hzeros]

/-- A `PARSE_BYTE` word selects the arm of the state in `st` (R59). -/
theorem decodeAt_of_decode {w : Word} {b : Byte} {p : ParseState} {i : Instr} (h : decode w = .ok (.parseByte b))
    (harm : armOf p b = some i) : decodeAt p.code w = .ok i := by
  simp [decodeAt, h, harm]

/-- An arm row has the word of its command row (R49). -/
theorem encode_of_armOf {p : ParseState} {b : Byte} {i : Instr} (h : armOf p b = some i) :
    encode i = encode (.parseByte b) := by
  cases p <;> cases h <;> rfl

/-- Settles O1: an arm row has its command row's word, and `decodeAt` selects the arm from what that decodes to. -/
theorem decodeOfEncode : Obligations.DecodeOfEncode := by
  refine ⟨fun i => decode_encode, fun i p hi => ?_⟩
  obtain ⟨b, harm⟩ := Machine.exists_armOf_of_armState hi
  rw [encode_of_armOf harm]
  exact decodeAt_of_decode (decode_encode rfl) harm

/-- Settles O2: the fields the decoder checks leave no other bit free. -/
theorem encodeOfDecode : Obligations.EncodeOfDecode := fun _ _ h => ⟨encode_of_decode h, Machine.decode_armState h⟩

/-- Bits all under the mask are read from the match (R49). -/
theorem extractLsb'_of_and_eq {w mask val : Word} {start len : Nat} (h : w &&& mask = val)
    (hmask : mask.extractLsb' start len = BitVec.allOnes len) : w.extractLsb' start len = val.extractLsb' start len := by
  rw [← h, BitVec.extractLsb'_and, hmask, BitVec.and_allOnes]

/-- A word that decodes has the bits its row fixes (R49). -/
theorem and_rowMask_of_decode {w : Word} {i : Instr} (h : decode w = .ok i) : w &&& i.rowMask = i.rowMatch := by
  rw [← encode_of_decode h]
  cases i
  case parseByte b => exact Laws.RowEncoding.parseByte b
  case reset => exact Laws.RowEncoding.reset
  case readBuf addr => exact Laws.RowEncoding.readBuf addr
  case readParsed => exact Laws.RowEncoding.readParsed
  case readErrors => exact Laws.RowEncoding.readErrors
  all_goals cases Machine.decode_armState h

/-- The `PARSE_BYTE` row of R49. -/
theorem and_mask_parseByte_iff (w : Word) :
    w &&& 0xFFFFFF00#32 = 0x10000000#32 ↔ decode w = .ok (.parseByte (w.setWidth 8)) := by
  refine ⟨fun h => decode_eq_ok_iff.mpr ⟨extractLsb'_of_and_eq h rfl, .inl ⟨?_, ?_, ?_⟩⟩, and_rowMask_of_decode⟩
  · exact extractLsb'_of_and_eq h rfl
  · exact extractLsb'_of_and_eq h rfl
  · rw [cmdByte, BitVec.setWidth_eq_extractLsb' (by decide)]

/-- The `READ_BUF` row of R49. -/
theorem and_mask_readBuf_iff (w : Word) :
    w &&& 0xFF000000#32 = 0x30000000#32 ↔ decode w = .ok (.readBuf (w.setWidth 24)) := by
  refine ⟨fun h => decode_eq_ok_iff.mpr ⟨extractLsb'_of_and_eq h rfl, .inr (.inr (.inl ⟨?_, ?_⟩))⟩, and_rowMask_of_decode⟩
  · exact extractLsb'_of_and_eq h rfl
  · rw [cmdOperand, BitVec.setWidth_eq_extractLsb' (by decide)]

/-- A row whose word is one constant: the whole word is fixed (R49). -/
theorem and_mask_all_iff {i : Instr} (hi : i.armState = none) (hmask : i.rowMask = BitVec.allOnes 32)
    (w : Word) : w &&& i.rowMask = i.rowMatch ↔ decode w = .ok i := by
  refine ⟨fun h => ?_, and_rowMask_of_decode⟩
  have henc := and_rowMask_of_decode (decode_encode hi)
  rw [hmask, BitVec.and_allOnes] at h henc
  rw [h, ← henc]
  exact decode_encode hi

/-- The mask and match columns of R49, one row for each command. -/
def opcodeRows : List (Word × Word) :=
  [(0xFFFFFF00#32, 0x10000000#32), (0xFFFFFFFF#32, 0x20000000#32), (0xFF000000#32, 0x30000000#32),
    (0xFFFFFFFF#32, 0x40000000#32), (0xFFFFFFFF#32, 0x50000000#32)]

/-- Every mask covers `op`. -/
theorem opcodeRows_mask : ∀ row ∈ opcodeRows, cmdOp row.1 = BitVec.allOnes 4 := by
  simp [opcodeRows, cmdOp]

/-- No two rows share an `op`. -/
theorem opcodeRows_nodup : (opcodeRows.map fun row => cmdOp row.2).Nodup := by decide

/-- At most one row matches a word: a match fixes `op`, which no two rows share (R49). -/
theorem countP_opcodeRows_le_one (w : Word) :
    opcodeRows.countP (fun row : Word × Word => w &&& row.1 == row.2) ≤ 1 := by
  have hop : ∀ row ∈ opcodeRows, (w &&& row.1 == row.2) = true → (cmdOp row.2 == cmdOp w) = true := fun row hrow h =>
    beq_iff_eq.mpr (extractLsb'_of_and_eq (beq_iff_eq.mp h) (opcodeRows_mask row hrow)).symm
  calc opcodeRows.countP (fun row : Word × Word => w &&& row.1 == row.2)
      ≤ opcodeRows.countP ((· == cmdOp w) ∘ fun row => cmdOp row.2) := List.countP_mono_left hop
    _ = (opcodeRows.map fun row => cmdOp row.2).count (cmdOp w) := by rw [List.count, List.countP_map]
    _ ≤ 1 := List.nodup_iff_count_le_one.mp opcodeRows_nodup _

/-- Settles O3: row by row; the fields of the match fix what the decoder reads, and a decoded word is its row's. -/
theorem decodeFollowsOpcodeMap : Obligations.DecodeFollowsOpcodeMap := fun w =>
  ⟨and_mask_parseByte_iff w, and_mask_all_iff (i := .reset) rfl rfl w, and_mask_readBuf_iff w,
    and_mask_all_iff (i := .readParsed) rfl rfl w, and_mask_all_iff (i := .readErrors) rfl rfl w,
    countP_opcodeRows_le_one w,
    fun _ _ h harm => decodeAt_of_decode ((and_mask_parseByte_iff w).mp h) harm⟩

end Sys2Proof
end

section
/-! What is refused, and by which name: the reserved words (R50), a read out of range (R31, R80), an arm row in
another state (R49). -/

namespace Sys2Proof.Machine

/-- A refused read names the offset (R31). -/
theorem memRead_error {s : State} {k : Nat} {r : Refusal} (h : memRead k s = .error r) : r = .readOutOfRange k := by
  unfold memRead at h
  split at h <;> cases h
  rfl

theorem memReadRange_error {s : State} {k n : Nat} {r : Refusal} (h : memReadRange k n s = .error r) :
    ∃ j, r = .readOutOfRange j := by
  induction n generalizing k with
  | zero => cases h
  | succ n ih =>
    unfold memReadRange at h
    split at h
    case h_1 r' hread =>
      cases h
      exact ⟨_, memRead_error hread⟩
    case h_2 =>
      split at h <;> cases h
      case h_1 hrest => exact ih hrest

theorem memReadHalf_error {s : State} {k : Nat} {r : Refusal} (h : memReadHalf k s = .error r) :
    ∃ j, r = .readOutOfRange j := by
  unfold memReadHalf at h
  split at h
  case h_1 hlo =>
    cases h
    exact ⟨_, memRead_error hlo⟩
  case h_2 =>
    split at h <;> cases h
    case h_1 hhi => exact ⟨_, memRead_error hhi⟩

/-- `VERIFY` is refused by an offset it would read only (R61, R31). -/
theorem verify_error {s : State} {r : Refusal} (h : verify s = .error r) : ∃ j, r = .readOutOfRange j := by
  unfold verify at h
  split at h
  case h_1 hlen =>
    cases h
    exact memReadHalf_error hlen
  case h_2 =>
    split at h
    case h_1 hstored =>
      cases h
      exact memReadHalf_error hstored
    case h_2 =>
      split at h <;> cases h
      case h_1 hbody => exact memReadRange_error hbody

/-- A refusal after a stored byte is one of what follows it. -/
theorem andThen_store_refused {b : Byte} {s : State} {k : State → Result} {r : Refusal}
    (h : andThen (store b s) k = .refused r) : k (stored b s) = .refused r := by
  rw [store_eq] at h
  split at h
  case isTrue => exact h
  case isFalse => cases h

/-- An arm in another state is not selected (R49). -/
theorem exec_arm_of_ne {p : ParseState} {b : Byte} {i : Instr} {s : State} (harm : armOf p b = some i)
    (hst : s.st ≠ p.code) : exec i s = .refused (.armNotSelected s.st) := by
  cases p <;> cases harm <;> exact inArm_of_ne hst _

/-- An arm refuses another state, or a byte its verdict would read (R49, R61). -/
theorem exec_arm_refused {p : ParseState} {b : Byte} {i : Instr} {s : State} {r : Refusal} (harm : armOf p b = some i)
    (h : exec i s = .refused r) : r = .armNotSelected s.st ∨ ∃ k, r = .readOutOfRange k := by
  by_cases hst : s.st = p.code
  case neg =>
    cases (exec_arm_of_ne harm hst).symm.trans h
    exact .inl rfl
  case pos =>
    cases p <;> cases harm <;> replace h := (inArm_of_eq hst _).symm.trans h
    case waitStart =>
      split at h
      case isTrue => cases andThen_store_refused h
      case isFalse => cases h
    case waitHeader =>
      split at h
      case isTrue => cases andThen_store_refused h
      case isFalse => cases h
    case waitChecksumH =>
      replace h := andThen_store_refused h
      split at h
      case h_1 hverify =>
        cases h
        exact .inr (verify_error hverify)
      case h_2 => cases h
    all_goals cases andThen_store_refused h

/-- A `PARSE_BYTE` that is refused ran the arm of the state `st` names. -/
theorem exec_parseByte_refused {b : Byte} {s : State} {r : Refusal} (h : exec (.parseByte b) s = .refused r) :
    ∃ p i, armOf p b = some i ∧ exec i s = .refused r := by
  rw [exec_parseByte_eq] at h
  rcases hi : (ParseState.ofCode s.st).bind (armOf · b) with _ | i
  · simp [hi] at h
  · obtain ⟨p, -, harm⟩ := Option.bind_eq_some_iff.mp hi
    exact ⟨p, i, harm, by simpa [hi] using h⟩

theorem exec_readBuf_refused {addr : BitVec 24} {s : State} {r : Refusal} (h : exec (.readBuf addr) s = .refused r) :
    r = .readOutOfRange addr.toNat := by
  change execReadBuf addr s = .refused r at h
  unfold execReadBuf at h
  split at h
  case h_1 hread =>
    cases h
    exact memRead_error hread
  case h_2 => cases h

/-- What an instruction can be refused for. -/
theorem exec_refused {i : Instr} {s : State} {r : Refusal} (h : exec i s = .refused r) :
    r = .armNotSelected s.st ∨ ∃ k, r = .readOutOfRange k := by
  rcases instr_command_or_arm i with ⟨b, rfl⟩ | rfl | ⟨a, rfl⟩ | rfl | rfl | ⟨p, b, harm⟩
  · obtain ⟨p, i, harm, hi⟩ := exec_parseByte_refused h
    exact exec_arm_refused harm hi
  · cases h
  · exact .inr ⟨_, exec_readBuf_refused h⟩
  · cases h
  · cases h
  · exact exec_arm_refused harm h

/-- No instruction is refused as a reserved word: only `step` refuses so, and before it runs one (R50, R90). -/
theorem exec_ne_reservedCommand (i : Instr) (s : State) (w : Word) : exec i s ≠ .refused (.reservedCommand w) := fun h => by
  rcases exec_refused h with hr | ⟨k, hr⟩ <;> cases hr

/-- A step is refused with the word exactly when the word decodes to no command (R50). -/
theorem step_reservedCommand_iff {s : State} {w : Word} {ws : List Word} (hpending : s.pending = w :: ws) :
    step s = .refused (.reservedCommand w) ↔ ∀ i, decode w ≠ .ok i := by
  refine ⟨fun h i hdecode => ?_, fun h => ?_⟩
  · exact exec_ne_reservedCommand i _ w ((step_of_decode hpending hdecode).symm.trans h)
  · unfold step
    rw [hpending]
    rcases hdecode : decode w with r | i
    · simp [hdecode]
    · exact absurd hdecode (h i)

/-- R50's list of the reserved words, by the fields. -/
def Reserves (w : Word) : Prop :=
  cmdOp w = 0#4 ∨ 6#4 ≤ cmdOp w ∨ cmdRsv w ≠ 0#4 ∨ (cmdOp w = 1#4 ∧ cmdByteZeros w ≠ 0#16) ∨
    ((cmdOp w = 2#4 ∨ cmdOp w = 4#4 ∨ cmdOp w = 5#4) ∧ cmdOperand w ≠ 0#24)

/-- `op` names a command or is reserved itself (R46). -/
theorem opcode_cases :
    ∀ op : BitVec 4, (op = 1#4 ∨ op = 2#4 ∨ op = 3#4 ∨ op = 4#4 ∨ op = 5#4) ∨
      (op = 0#4 ∨ 6#4 ≤ op) ∧ op ≠ 1#4 ∧ op ≠ 2#4 ∧ op ≠ 3#4 ∧ op ≠ 4#4 ∧ op ≠ 5#4 := by
  decide

/-- The listed words are those of no command row. -/
theorem reserves_iff (w : Word) : Reserves w ↔ ∀ i, decode w ≠ .ok i := by
  simp only [ne_eq, decode_eq_ok_iff, IsCommandWord, Reserves]
  rcases opcode_cases (cmdOp w) with (hop | hop | hop | hop | hop) | ⟨hreserved, h1, h2, h3, h4, h5⟩
  · simp [hop, or_iff_not_imp_left]
  · simp [hop, or_iff_not_imp_left]
  · simp [hop]
  · simp [hop, or_iff_not_imp_left]
  · simp [hop, or_iff_not_imp_left]
  · simp [← or_assoc, hreserved, h1, h2, h3, h4, h5]

theorem readBuf_word (addr : BitVec 24) : 0x30000000#32 ||| addr.setWidth 32 = encode (.readBuf addr) := by
  rw [encode, cmdWord, BitVec.append_def, BitVec.shiftLeftZeroExtend_eq, BitVec.setWidth'_eq]
  rfl

theorem exec_readBuf_of_ge {s : State} {addr : BitVec 24} (h : s.cfg.capacity ≤ addr.toNat) :
    exec (.readBuf addr) s = .refused (.readOutOfRange addr.toNat) := by
  change execReadBuf addr s = _
  rw [execReadBuf, addrOperand, memRead_of_ge h]

/-- Settles O4: a step refuses the words that decode to no command, which are those R50 lists. -/
theorem reservedWordsRefused : Obligations.ReservedWordsRefused := by
  intro s w ws hpending
  refine ⟨fun addr hw hrange => ?_, (reserves_iff w).trans (step_reservedCommand_iff hpending).symm⟩
  rw [step_of_decode hpending (hw.trans (readBuf_word addr) ▸ decode_encode rfl)]
  exact exec_readBuf_of_ge hrange

/-- Settles O26: an arm row is the arm of the state it needs, which runs under `inArm`. -/
theorem armOfAnotherStateRefused : Obligations.ArmOfAnotherStateRefused := by
  intro s i p hi hst
  obtain ⟨b, harm⟩ := exists_armOf_of_armState hi
  exact exec_arm_of_ne harm hst

end Sys2Proof.Machine
end

section
/-! The tables of 30_encoding: sample words (R46), the `PS` codes (R52), sample lines of text (R56, R57). -/

namespace Sys2Proof.Machine

/-- Settles O5: the decoder is run on each word. -/
theorem sampleWordsDecode : Obligations.SampleWordsDecode := by
  unfold Obligations.SampleWordsDecode
  decide

/-- Settles O6: `ofCode` inverts `code`, and the running states are those with an arm. -/
theorem parseStateCodes : Obligations.ParseStateCodes := by
  refine ⟨rfl, fun c p => ofCode_eq_some, by decide, fun p => ⟨code_of_running, fun h => ?_⟩⟩
  simpa using map_running_ofCode p.code h

/-- Settles O7: the assembler is run on each line. -/
theorem sampleLinesAssemble : Obligations.SampleLinesAssemble := by
  unfold Obligations.SampleLinesAssemble
  decide

end Sys2Proof.Machine
end

section
/-! The arms that accept a byte, as one table: where the byte leads and what `rem` is left at (R62 to R71); the length read in
two steps (R48). -/

namespace Sys2Proof.Machine

/-- What follows an accepted byte runs when there is room for it (R30, R33). -/
theorem andThen_store_of_lt {s : State} (h : s.cur < s.cfg.capacity) (b : Byte) (k : State → Result) :
    andThen (store b s) k = k (stored b s) := by
  rw [store_eq, if_pos h, andThen_next]

/-- Where the arm of `p` leads after it accepts `b`, and what it leaves in `rem` (R63 to R71); `none` where the arm stores at
another offset than `cur` or gives a verdict, and where there is no arm. -/
def accepts (capacity : Nat) (rem : Half) (b : Byte) : ParseState → Option (ParseState × Half)
  | .waitHeader => if b = magicR then some (.waitLengthL, rem) else none
  | .waitLengthL => some (.waitLengthH, lengthLow b)
  | .waitLengthH => some (afterLength capacity (lengthHigh rem b), lengthHigh rem b)
  | .waitMsgIdL => some (.waitMsgIdH, rem)
  | .waitMsgIdH => some (.waitSrcId, rem)
  | .waitSrcId => some (.waitDstId, rem)
  | .waitDstId => some (afterCount rem, rem)
  | .waitPayload => some (afterCount (rem - 1#16), rem - 1#16)
  | .waitChecksumL => some (.waitChecksumH, rem)
  | .newMessage | .waitStart | .waitChecksumH | .error => none

/-- The table is what `PARSE_BYTE` does while there is room in the buffer. -/
theorem exec_parseByte_of_accepts {p q : ParseState} {s : State} {b : Byte} {n : Half} (hst : s.st = p.code)
    (hroom : s.cur < s.cfg.capacity) (h : accepts s.cfg.capacity s.rem b p = some (q, n)) :
    exec (.parseByte b) s = .next (((stored b s).setRem n).advance q) := by
  cases p
  case waitHeader =>
    obtain ⟨hmagic, ⟨⟩⟩ := Option.ite_none_right_eq_some.mp h
    refine (exec_parseByte_of_st hst rfl).trans ((inArm_of_eq hst _).trans ((if_pos hmagic).trans ?_))
    exact andThen_store_of_lt hroom b _
  all_goals cases h
  all_goals
    refine (exec_parseByte_of_st hst rfl).trans ((inArm_of_eq hst _).trans ?_)
    exact andThen_store_of_lt hroom b _

theorem afterLength_code (c : Nat) (len : Half) : (afterLength c len).code = if len.toNat + 10 ≤ c then 5#4 else 1#4 := by
  rw [afterLength_eq]
  split <;> rfl

/-- Settles O36: the two length arms in turn leave the little-endian value in `rem`, and the second checks it. -/
theorem lengthFromTwoBytes : Obligations.LengthFromTwoBytes := by
  intro s lo hi hst hroom hcap
  have hlow := exec_parseByte_of_accepts (p := .waitLengthL) (b := lo) hst (by omega) rfl
  have hhigh := exec_parseByte_of_accepts (p := .waitLengthH)
    (s := ((stored lo s).setRem (lengthLow lo)).advance .waitLengthH) (b := hi) rfl hroom rfl
  refine ⟨_, _, hlow, hhigh, ?_⟩
  simp only [State.advance_rem, State.setRem_rem, lengthHigh_lengthLow, State.advance_st, afterLength_code,
    fieldsAreLittleEndian lo hi, State.advance_cfg, State.setRem_cfg, stored_cfg, true_and]
  exact ⟨fun h => if_pos (by omega), fun h => if_neg (by omega)⟩

end Sys2Proof.Machine
end

section
/-! Feeding a frame from `WAIT_START` (R54, R73, R79): the rule for bytes fed one after the other, what the state holds in the
middle of a frame, and the header and the payload. -/

namespace Sys2Proof.Machine

/-- Runs of steps put one after the other. -/
theorem responses_add {m n : Nat} {s t u : State} {rs rs' : List Nat} (hfirst : responses m s = some (rs, t))
    (hrest : responses n t = some (rs', u)) : responses (m + n) s = some (rs ++ rs', u) := by
  induction m generalizing s rs with
  | zero =>
    cases hfirst
    simpa using hrest
  | succ m ih =>
    rw [Nat.succ_add]
    unfold responses at hfirst ⊢
    split at hfirst
    case h_1 s' _ =>
      obtain ⟨⟨rs₁, t₁⟩, hrun, heq⟩ := Option.map_eq_some_iff.mp hfirst
      cases heq
      simp [ih hrun]
    case h_2 => cases hfirst
    case h_3 => cases hfirst

/-- From every state of `P`, the bytes `bs` fed first are answered by `rs` and lead to a state of `Q`, whatever is to come. -/
def Feeds (P : State → Prop) (bs : List Byte) (rs : List Nat) (Q : State → Prop) : Prop :=
  ∀ s ws, P s → s.pending = feedWords bs ++ ws →
    ∃ t, responses bs.length s = some (rs, t) ∧ t.pending = ws ∧ Q t

theorem Feeds.nil (P : State → Prop) : Feeds P [] [] P := fun s _ hs hpending => ⟨s, rfl, hpending, hs⟩

theorem Feeds.append {P Q R : State → Prop} {bs bs' : List Byte} {rs rs' : List Nat} (hfirst : Feeds P bs rs Q)
    (hrest : Feeds Q bs' rs' R) : Feeds P (bs ++ bs') (rs ++ rs') R := by
  intro s ws hs hpending
  rw [feedWords, List.map_append, List.append_assoc] at hpending
  obtain ⟨t, hrun, htaken, ht⟩ := hfirst s _ hs hpending
  obtain ⟨u, hrun', htaken', hu⟩ := hrest t ws ht htaken
  rw [List.length_append]
  exact ⟨u, responses_add hrun hrun', htaken', hu⟩

/-- One byte is one step, which runs `PARSE_BYTE` (R40). -/
theorem Feeds.byte {P Q : State → Prop} {b : Byte} {r : Nat} (hpending : ∀ s ws, P s → P (s.setPending ws))
    (hexec : ∀ s, P s → ∃ t, exec (.parseByte b) s = .next t ∧ t.resp = some r ∧ Q t) : Feeds P [b] [r] Q := by
  intro s ws hs hwords
  obtain ⟨t, ht, hresp, hQ⟩ := hexec _ (hpending s ws hs)
  obtain ⟨-, htaken⟩ := exec_cfg_pending ht
  have hstep : step s = .next t := (step_of_decode hwords (decode_encode rfl)).trans ht
  refine ⟨t, ?_, htaken, hQ⟩
  simp [responses, hstep, hresp]

/-- What the bytes of a frame leave as it was in `base`, and the buffer's form. -/
structure InFrame (base s : State) : Prop where
  cfg : s.cfg = base.cfg
  parsed : s.parsed = base.parsed
  errors : s.errors = base.errors
  wf : Memory.wf s.cfg.bufInit s.buf = true

/-- Nothing of the frame is taken; the cursor does not matter (R17, R62). -/
structure Searching (base s : State) : Prop extends InFrame base s where
  st : s.st = ParseState.waitStart.code
  rem : s.rem = base.rem

/-- The bytes `f` of the frame are taken, `p` is the state to go on in and `r` the count in `rem`. -/
structure Taken (base : State) (f : List Byte) (p : ParseState) (r : Half) (s : State) : Prop extends InFrame base s where
  st : s.st = p.code
  cur : s.cur = f.length
  rem : s.rem = r
  starts : BufferStarts f s

/-- The byte stored after the first bytes of the buffer extends them. -/
theorem BufferStarts.stored {f : List Byte} {s : State} (h : BufferStarts f s)
    (hwf : Memory.wf s.cfg.bufInit s.buf = true) (hcur : s.cur = f.length) (b : Byte) :
    BufferStarts (f ++ [b]) (stored b s) := by
  intro k hk
  rw [byteAt_stored hwf, hcur]
  split
  case isTrue hlast => simp [hlast]
  case isFalse hne =>
    have hlt : k < f.length := by
      rw [List.length_append, List.length_singleton] at hk
      omega
    rw [h k hlt, List.getElem_append_left hlt]

section
variable {base : State} {f : List Byte} {p q : ParseState} {r n : Half} {b : Byte}

theorem Taken.setPending {s : State} (h : Taken base f p r s) (ws : List Word) : Taken base f p r (s.setPending ws) :=
  ⟨⟨h.cfg, h.parsed, h.errors, h.wf⟩, h.st, h.cur, h.rem, h.starts⟩

/-- A byte stored at the cursor is taken behind those before it. -/
theorem Taken.accept {s : State} (h : Taken base f p r s) (b : Byte) (q : ParseState) (n : Half) :
    Taken base (f ++ [b]) q n (((Machine.stored b s).setRem n).advance q) where
  cfg := h.cfg
  parsed := h.parsed
  errors := h.errors
  wf := Memory.wf_write s.cur b h.wf
  st := rfl
  cur := by simp [h.cur]
  rem := rfl
  starts := h.starts.stored h.wf h.cur b

/-- The first magic byte starts a frame at offset 0 (R62). -/
theorem feeds_begin (hroom : 0 < base.cfg.capacity) :
    Feeds (Searching base) [magicB] [2] (Taken base [magicB] .waitHeader base.rem) := by
  refine Feeds.byte (fun s ws hs => ⟨⟨hs.cfg, hs.parsed, hs.errors, hs.wf⟩, hs.st, hs.rem⟩) fun s hs => ?_
  have hnone : Taken base [] .waitStart s.rem (s.setCur 0) :=
    ⟨⟨hs.cfg, hs.parsed, hs.errors, hs.wf⟩, hs.st, rfl, rfl, nofun⟩
  refine ⟨(stored magicB (s.setCur 0)).advance .waitHeader, ?_, rfl, ?_⟩
  · refine (exec_parseByte_of_st hs.st rfl).trans ((inArm_of_eq hs.st _).trans ((if_pos rfl).trans ?_))
    exact andThen_store_of_lt (hs.cfg ▸ hroom) _ _
  · rw [← hs.rem]
    exact hnone.accept magicB .waitHeader s.rem

/-- A byte its arm accepts is one response further in the frame (R73). -/
theorem feeds_accepts (hroom : f.length < base.cfg.capacity) (h : accepts base.cfg.capacity r b p = some (q, n)) :
    Feeds (Taken base f p r) [b] [q.code.toNat] (Taken base (f ++ [b]) q n) :=
  Feeds.byte (fun _ ws hs => hs.setPending ws) fun s hs =>
    ⟨_, exec_parseByte_of_accepts hs.st (by rwa [hs.cur, hs.cfg]) (by rwa [hs.cfg, hs.rem]), rfl, hs.accept b q n⟩

/-- The two bytes of a field give it back (R32, R54). -/
theorem leHalf_leBytes (v : Half) : leHalf (v.setWidth 8) ((v >>> 8).setWidth 8) = v := by
  apply BitVec.eq_of_toNat_eq
  rw [fieldsAreLittleEndian]
  simp only [BitVec.toNat_setWidth, BitVec.toNat_ushiftRight, Nat.shiftRight_eq_div_pow]
  omega

/-- The length's high byte leads on to the ids when the length fits (R65). -/
theorem accepts_lengthHigh {c : Nat} {len : Half} (hlen : len.toNat + 10 ≤ c) :
    accepts c (lengthLow (len.setWidth 8)) ((len >>> 8).setWidth 8) .waitLengthH = some (.waitMsgIdL, len) := by
  simp only [accepts, lengthHigh_lengthLow, leHalf_leBytes, afterLength_eq, if_pos hlen]

/-- The magic, the length and the ids (R79). -/
theorem feeds_header {len : Half} (id : Half) (src dst : Byte) (hlen : len.toNat + 10 ≤ base.cfg.capacity) :
    Feeds (Searching base) (frameBody len id src dst []) [2, 3, 4, 5, 6, 7, 8, (afterCount len).code.toNat]
      (Taken base (frameBody len id src dst []) (afterCount len) len) := by
  have hroom {k : Nat} (hk : k < 10) : k < base.cfg.capacity := by omega
  have hmagic := (feeds_begin (base := base) (hroom (by simp))).append (feeds_accepts (b := magicR) (hroom (by simp)) rfl)
  have hlength := (hmagic.append (feeds_accepts (b := len.setWidth 8) (hroom (by simp)) rfl)).append
    (feeds_accepts (hroom (by simp)) (accepts_lengthHigh hlen))
  have hid := (hlength.append (feeds_accepts (b := id.setWidth 8) (hroom (by simp)) rfl)).append
    (feeds_accepts (b := (id >>> 8).setWidth 8) (hroom (by simp)) rfl)
  exact (hid.append (feeds_accepts (b := src) (hroom (by simp)) rfl)).append
    (feeds_accepts (b := dst) (hroom (by simp)) rfl)

/-- The responses to `n` payload bytes (R70, R73). -/
def payloadResponses : Nat → List Nat
  | 0 => []
  | n + 1 => List.replicate n 9 ++ [10]

theorem afterCount_of_ne {n : Half} (h : n ≠ 0#16) : afterCount n = .waitPayload := if_neg h

/-- The byte before the payload announces it, or the checksum (R69). -/
theorem afterCount_cons_payloadResponses (n : Half) :
    (afterCount n).code.toNat :: payloadResponses n.toNat = List.replicate n.toNat 9 ++ [10] := by
  cases hn : n.toNat with
  | zero =>
    obtain rfl : n = 0#16 := BitVec.eq_of_toNat_eq hn
    rfl
  | succ k =>
    rw [afterCount_of_ne (by rintro rfl; cases hn)]
    rfl

/-- The payload is counted down to the checksum (R70). -/
theorem feeds_payload (payload : List Byte) (hcount : payload.length = n.toNat)
    (hroom : f.length + n.toNat ≤ base.cfg.capacity) :
    Feeds (Taken base f (afterCount n) n) payload (payloadResponses n.toNat)
      (Taken base (f ++ payload) .waitChecksumL 0#16) := by
  induction payload generalizing f n with
  | nil =>
    obtain rfl : n = 0#16 := BitVec.eq_of_toNat_eq hcount.symm
    rw [List.append_nil]
    exact Feeds.nil _
  | cons b bs ih =>
    rw [List.length_cons] at hcount
    have hrest : bs.length = (n - 1#16).toNat := by bv_omega
    have hbyte : accepts base.cfg.capacity n b (afterCount n) = some (afterCount (n - 1#16), n - 1#16) := by
      rw [afterCount_of_ne (by rintro rfl; cases hcount)]
      rfl
    have hresponses : payloadResponses n.toNat = [(afterCount (n - 1#16)).code.toNat] ++ payloadResponses (n - 1#16).toNat := by
      rw [← hcount, hrest]
      exact (afterCount_cons_payloadResponses _).symm
    have hfed := (feeds_accepts (f := f) (by omega) hbyte).append (ih hrest (by simp; omega))
    rwa [List.append_assoc, ← hresponses] at hfed

end

end Sys2Proof.Machine
end

section
/-! The verdict on a frame in the buffer (R61, R72), and the whole frame (R79). -/

namespace Sys2Proof.Machine

/-- A byte of the frame is read back at its offset. -/
theorem BufferStarts.byteAt_of_getElem? {f : List Byte} {s : State} (h : BufferStarts f s) {k : Nat} {b : Byte}
    (hb : f[k]? = some b) : byteAt s k = b := by
  obtain ⟨hk, rfl⟩ := List.getElem?_eq_some_iff.mp hb
  exact h k hk

/-- The bytes read from the buffer's start are those it starts with. -/
theorem BufferStarts.map_byteAt {f g : List Byte} {s : State} (h : BufferStarts (f ++ g) s) :
    (List.range f.length).map (byteAt s) = f := by
  refine List.ext_getElem (by simp) fun k _ hk => ?_
  rw [List.getElem_map, List.getElem_range, h k (by simp; omega), List.getElem_append_left hk]

section
variable {len id ck : Half} {src dst : Byte} {payload : List Byte}

theorem length_frameBody (hcount : payload.length = len.toNat) :
    (frameBody len id src dst payload).length = 8 + len.toNat := by
  simp [frameBody, leBytes, hcount]
  omega

theorem length_framexBytes (hcount : payload.length = len.toNat) :
    (framexBytes len id src dst payload ck).length = 10 + len.toNat := by
  simp [framexBytes, leBytes, length_frameBody hcount]
  omega

/-- The length field of a frame in the buffer (R60). -/
theorem declaredLen_of_starts {s : State} (h : BufferStarts (framexBytes len id src dst payload ck) s) :
    declaredLen s = len := by
  have hlo : byteAt s 2 = len.setWidth 8 := h.byteAt_of_getElem? rfl
  have hhi : byteAt s 3 = (len >>> 8).setWidth 8 := h.byteAt_of_getElem? rfl
  rw [declaredLen, hlo, hhi, leHalf_leBytes]

/-- The verdict on a frame in the buffer compares its checksum field with `CKSUM` of the rest (R61). -/
theorem frameChecks_of_starts {s : State} (h : BufferStarts (framexBytes len id src dst payload ck) s)
    (hcount : payload.length = len.toNat) :
    frameChecks s = (ck == checksum s.cfg.cksum (frameBody len id src dst payload)) := by
  have hlength := length_frameBody (id := id) (src := src) (dst := dst) hcount
  have hbody := hlength ▸ BufferStarts.map_byteAt h
  have hlo : byteAt s (8 + len.toNat) = ck.setWidth 8 :=
    h.byteAt_of_getElem? (by simp [framexBytes, leBytes, ← hlength])
  have hhi : byteAt s (9 + len.toNat) = (ck >>> 8).setWidth 8 :=
    h.byteAt_of_getElem? (by
      rw [show 9 + len.toNat = (frameBody len id src dst payload).length + 1 by omega]
      simp [framexBytes, leBytes])
  rw [frameChecks, declaredLen_of_starts h, hbody, hlo, hhi, leHalf_leBytes]

/-- `WAIT_CHECKSUM_H` gives the verdict on the frame its byte completes (R72). -/
theorem exec_parseByte_of_verdict {s : State} {b : Byte} (hst : s.st = ParseState.waitChecksumH.code)
    (hroom : s.cur < s.cfg.capacity) (hframe : 9 + (declaredLen (stored b s)).toNat < s.cfg.capacity) :
    exec (.parseByte b) s = .next ((stored b s).verdict (frameChecks (stored b s))) := by
  refine (exec_parseByte_of_st hst rfl).trans ((inArm_of_eq hst _).trans ((andThen_store_of_lt hroom b _).trans ?_))
  rw [verify_of_lt hframe]

/-- The frame `f` is complete: back in `WAIT_START`, the frame in the buffer and one counter up (R72). -/
structure Judged (base : State) (f : List Byte) (valid : Bool) (s : State) : Prop where
  st : s.st = ParseState.waitStart.code
  starts : BufferStarts f s
  parsed : s.parsed = if valid then countUp base.cfg.cntW base.parsed else base.parsed
  errors : s.errors = if valid then base.errors else countUp base.cfg.cntW base.errors

/-- The last byte of a frame is answered by its verdict (R72, R73). -/
theorem feeds_verdict {base : State} {f : List Byte} {b : Byte} (hframe : f ++ [b] = framexBytes len id src dst payload ck)
    (hcount : payload.length = len.toNat) (hlen : len.toNat + 10 ≤ base.cfg.capacity) {valid : Bool}
    (hvalid : valid = (ck == checksum base.cfg.cksum (frameBody len id src dst payload))) :
    Feeds (Taken base f .waitChecksumH 0#16) [b] [if valid then 0 else 12]
      (Judged base (framexBytes len id src dst payload ck) valid) := by
  have hlength : f.length = 9 + len.toNat := by
    have hall := congrArg List.length hframe
    rw [length_framexBytes hcount, List.length_append, List.length_singleton] at hall
    omega
  refine Feeds.byte (fun s ws hs => hs.setPending ws) fun s hs => ?_
  have hstarts := hframe ▸ hs.starts.stored hs.wf hs.cur b
  have hchecks : frameChecks (stored b s) = valid := by
    rw [frameChecks_of_starts hstarts hcount, hvalid, stored_cfg, hs.cfg]
  refine ⟨_, exec_parseByte_of_verdict hs.st ?_ ?_, ?_, ?_⟩
  · rw [hs.cur, hs.cfg]
    omega
  · rw [declaredLen_of_starts hstarts, hs.cfg]
    omega
  · rw [State.verdict_resp, hchecks]
    cases valid <;> rfl
  · rw [hchecks]
    refine ⟨State.verdict_st .., fun k hk => ?_, ?_, ?_⟩
    · rw [byteAt_congr (State.verdict_cfg ..) (State.verdict_buf ..)]
      exact hstarts k hk
    · simp [hs.cfg, hs.parsed]
    · simp [hs.cfg, hs.errors]

/-- The responses of R79 in the parts in which the frame is fed. -/
theorem frameResponses_eq (n : Half) :
    frameResponses n.toNat = [2, 3, 4, 5, 6, 7, 8, (afterCount n).code.toNat] ++ payloadResponses n.toNat ++ [11] := by
  have hcounted : (if n.toNat = 0 then [10] else List.replicate n.toNat 9 ++ [10]) = List.replicate n.toNat 9 ++ [10] := by
    split
    case isTrue hzero => rw [hzero]; rfl
    case isFalse => rfl
  rw [frameResponses, hcounted, ← afterCount_cons_payloadResponses]
  rfl

/-- A whole frame, from frame search to its verdict (R79): the header, the payload and the two checksum bytes. -/
theorem feeds_frame {base : State} (hcount : payload.length = len.toNat) (hlen : len.toNat + 10 ≤ base.cfg.capacity)
    {valid : Bool} (hvalid : valid = (ck == checksum base.cfg.cksum (frameBody len id src dst payload))) :
    Feeds (Searching base) (framexBytes len id src dst payload ck) (frameResponses len.toNat ++ [if valid then 0 else 12])
      (Judged base (framexBytes len id src dst payload ck) valid) := by
  have hbody : frameBody len id src dst [] ++ payload = frameBody len id src dst payload := by simp [frameBody]
  have hlength := length_frameBody (id := id) (src := src) (dst := dst) hcount
  have hframe : frameBody len id src dst payload ++ [ck.setWidth 8] ++ [(ck >>> 8).setWidth 8]
      = framexBytes len id src dst payload ck := List.append_assoc ..
  have hheader : (frameBody len id src dst []).length = 8 := rfl
  have hpayload := (feeds_header id src dst hlen).append (feeds_payload payload hcount (by omega))
  rw [hbody] at hpayload
  have hlow := hpayload.append (feeds_accepts (b := ck.setWidth 8) (by omega) rfl)
  have hverdict := hlow.append (feeds_verdict hframe hcount hlen hvalid)
  rw [hframe] at hverdict
  rw [frameResponses_eq]
  exact hverdict

end

/-- Settles O55: the words of the frame are its bytes fed, from a state in frame search to the verdict. -/
theorem frameRoundTrip : Obligations.FrameRoundTrip := by
  intro s len id ck src dst payload ws hwf hst hcount hlen hpending
  obtain ⟨t, hrun, htaken, ht⟩ := feeds_frame (base := s) (id := id) (ck := ck) (src := src) (dst := dst) hcount hlen rfl s ws
    ⟨⟨rfl, rfl, rfl, hwf⟩, hst, rfl⟩ hpending
  obtain ⟨hstart, hstarts, hparsed, herrors⟩ := ht
  refine ⟨t, ?_, hstart, htaken, hstarts, ?_, ?_⟩
  · simpa [length_framexBytes hcount] using hrun
  · simpa [countUp] using hparsed
  · simpa [countUp] using herrors

end Sys2Proof.Machine
end

section
/-! `RESET` (40_reset R58): its effect and its one word. -/

namespace Sys2Proof.Machine

/-- With `op` 2 the decoder reads `RESET` or nothing (R46, R49). -/
theorem eq_reset_of_decode {w : Word} {i : Instr} (hop : cmdOp w = 2#4) (h : decode w = .ok i) : i = .reset := by
  obtain ⟨-, hrow⟩ := decode_eq_ok_iff.mp h
  have hreset : cmdOperand w = 0#24 ∧ .reset = i := by simpa [IsCommandWord, hop] using hrow
  exact hreset.2.symm

/-- Settles O13: `execReset` is these three writes, and the encoder has one word for `RESET`. -/
theorem resetCommand : Obligations.ResetCommand := by
  intro s
  refine ⟨rfl, fun ws => ?_, fun w ws hop hne => ?_⟩
  · have hword : decode 0x20000000#32 = .ok .reset := decode_encode (i := .reset) rfl
    exact step_of_decode (s := { s with pending := _ :: ws }) rfl hword
  · refine (step_reservedCommand_iff rfl).mpr fun i hdecode => hne ?_
    obtain rfl := eq_reset_of_decode hop hdecode
    exact (encode_of_decode hdecode).symm

end Sys2Proof.Machine
end

section
/-! The invariant table of 41_parse_byte R76 as one row per running state. -/

namespace Sys2Proof.Machine

/-- The row of R76 for the state `p`. -/
def InvRow (s : State) : ParseState → Prop
  | .waitStart => s.cur ≤ s.cfg.capacity
  | .waitHeader => s.cur = 1 ∧ byteAt s 0 = magicB
  | .waitLengthL => s.cur = 2 ∧ MagicHeld s
  | .waitLengthH => s.cur = 3 ∧ s.rem = (byteAt s 2).setWidth 16 ∧ MagicHeld s
  | .waitMsgIdL => s.cur = 4 ∧ IdRow s
  | .waitMsgIdH => s.cur = 5 ∧ IdRow s
  | .waitSrcId => s.cur = 6 ∧ IdRow s
  | .waitDstId => s.cur = 7 ∧ IdRow s
  | .waitPayload =>
    s.cur + s.rem.toNat = 8 + (declaredLen s).toNat ∧ 1 ≤ s.rem.toNat ∧ s.rem.toNat ≤ (declaredLen s).toNat ∧
      LengthBounded s ∧ MagicHeld s
  | .waitChecksumL => s.cur = 8 + (declaredLen s).toNat ∧ s.rem = 0#16 ∧ LengthBounded s ∧ MagicHeld s
  | .waitChecksumH => s.cur = 9 + (declaredLen s).toNat ∧ s.rem = 0#16 ∧ LengthBounded s ∧ MagicHeld s
  | .newMessage | .error => False

theorem rows_iff {s : State} :
    (HeaderRows s ∧ IdRows s ∧ BodyRows s) ↔ ∀ p : ParseState, p.running = true → s.st = p.code → InvRow s p := by
  constructor
  · rintro ⟨⟨hstart, hheader, hlengthL, hlengthH⟩, ⟨hmsgIdL, hmsgIdH, hsrcId, hdstId⟩, hpayload, hchecksumL, hchecksumH⟩ p
    cases p with
    | waitStart => exact fun _ => hstart
    | waitHeader => exact fun _ => hheader
    | waitLengthL => exact fun _ => hlengthL
    | waitLengthH => exact fun _ => hlengthH
    | waitMsgIdL => exact fun _ => hmsgIdL
    | waitMsgIdH => exact fun _ => hmsgIdH
    | waitSrcId => exact fun _ => hsrcId
    | waitDstId => exact fun _ => hdstId
    | waitPayload => exact fun _ => hpayload
    | waitChecksumL => exact fun _ => hchecksumL
    | waitChecksumH => exact fun _ => hchecksumH
    | newMessage | error => exact nofun
  · intro h
    exact ⟨⟨h _ rfl, h _ rfl, h _ rfl, h _ rfl⟩, ⟨h _ rfl, h _ rfl, h _ rfl, h _ rfl⟩, h _ rfl, h _ rfl, h _ rfl⟩

theorem InvRow.running {s : State} {p : ParseState} (h : InvRow s p) : p.running = true := by
  cases p with
  | newMessage | error => exact h.elim
  | _ => rfl

/-- The invariant is the row of the state in `st`, with the ports (R76). -/
theorem framerInv_iff {s : State} : FramerInv s ↔ PortsWf s ∧ ∃ p : ParseState, s.st = p.code ∧ InvRow s p := by
  constructor
  · rintro ⟨hports, hrunning, hrows⟩
    obtain ⟨p, i, hst, harm⟩ := Running.exists_arm hrunning 0#8
    have hp : p.running = true := by rw [← isSome_armOf p 0#8, harm]; rfl
    exact ⟨hports, p, hst, rows_iff.mp hrows p hp hst⟩
  · rintro ⟨hports, p, hst, hrow⟩
    refine ⟨hports, running_of_st hrow.running hst, rows_iff.mpr fun q _ hq => ?_⟩
    obtain rfl : p = q := code_inj.mp (hst.symm.trans hq)
    exact hrow

/-- The length in exact numbers, with R6's overhead written out. -/
theorem LengthBounded.add_ten_le {s : State} (h : LengthBounded s) : (declaredLen s).toNat + 10 ≤ s.cfg.capacity := h

/-- The configurations R7 and R8 allow. -/
theorem configValid_iff {c : Config} :
    configValid c = true ↔ 10 ≤ c.capacity ∧ c.capacity ≤ 2 ^ 24 ∧ 1 ≤ c.cntW := by
  simp [configValid, and_assoc]

theorem PortsWf.ten_le {s : State} (h : PortsWf s) : 10 ≤ s.cfg.capacity := by
  obtain ⟨hvalid, -⟩ := h
  exact (configValid_iff.mp hvalid).1

section
variable {s : State} {p : ParseState} {b : Byte}

/-- Within a frame there is room for the next byte (R77). -/
theorem InvRow.cur_lt (h : InvRow s p) (hne : p ≠ .waitStart) (hcap : 10 ≤ s.cfg.capacity) : s.cur < s.cfg.capacity := by
  cases p with
  | waitStart => exact absurd rfl hne
  | newMessage | error => exact h.elim
  | waitHeader | waitLengthL | waitLengthH | waitMsgIdL | waitMsgIdH | waitSrcId | waitDstId =>
    obtain ⟨hcur, -⟩ := h
    omega
  | waitPayload =>
    obtain ⟨hcur, -, -, hbounded, -⟩ := h
    have hfits := hbounded.add_ten_le
    omega
  | waitChecksumL | waitChecksumH =>
    obtain ⟨hcur, -, hbounded, -⟩ := h
    have hfits := hbounded.add_ten_le
    omega

/-- The offset R75 lists is the one the arm stores at: `cur`, or 0 in `WAIT_START`. -/
theorem InvRow.tableOffset_eq (h : InvRow s p) (hst : s.st = p.code) : tableOffset s = storeOffset s := by
  unfold tableOffset
  rw [hst, ofCode_code]
  by_cases hstart : p = .waitStart
  · subst hstart
    exact (storeOffset_of_waitStart hst).symm
  · rw [storeOffset_of_ne (by rwa [hst, Ne, code_inj])]
    cases p with
    | waitStart => exact absurd rfl hstart
    | newMessage | error => exact h.elim
    | waitPayload =>
      obtain ⟨hcur, -⟩ := h
      simp only
      omega
    | _ =>
      obtain ⟨hcur, -⟩ := h
      exact hcur.symm

end

end Sys2Proof.Machine
end

section
/-! What an accepted byte leaves of the frame's fields, and that it leads from row to row of R76. -/

namespace Sys2Proof.Machine

section
variable {s : State} {b : Byte}

theorem byteAt_stored_of_ne {k : Nat} (hne : k ≠ s.cur) : byteAt (stored b s) k = byteAt s k :=
  Memory.read_write_of_ne _ _ b hne

theorem byteAt_stored_cur (hwf : Memory.wf s.cfg.bufInit s.buf = true) : byteAt (stored b s) s.cur = b := by
  rw [byteAt_stored hwf, if_pos rfl]

/-- A byte past the magic leaves it. -/
theorem MagicHeld.stored (h : MagicHeld s) (hcur : 2 ≤ s.cur) : MagicHeld (stored b s) := by
  unfold MagicHeld
  rwa [byteAt_stored_of_ne (by omega), byteAt_stored_of_ne (by omega)]

/-- A byte past the length field leaves the length. -/
theorem declaredLen_stored (hcur : 4 ≤ s.cur) : declaredLen (stored b s) = declaredLen s := by
  rw [declaredLen, byteAt_stored_of_ne (by omega), byteAt_stored_of_ne (by omega), declaredLen]

theorem LengthBounded.stored (h : LengthBounded s) (hcur : 4 ≤ s.cur) : LengthBounded (stored b s) := by
  unfold LengthBounded
  rwa [declaredLen_stored hcur]

theorem IdRow.stored (h : IdRow s) (hcur : 4 ≤ s.cur) : IdRow (stored b s) := by
  obtain ⟨hrem, hbounded, hmagic⟩ := h
  exact ⟨hrem.trans (declaredLen_stored hcur).symm, hbounded.stored hcur, hmagic.stored (by omega)⟩

/-- The byte at offset 3 completes the length whose low byte stands in `rem` (R65). -/
theorem declaredLen_stored_lengthHigh (hwf : Memory.wf s.cfg.bufInit s.buf = true) (hcur : s.cur = 3)
    (hrem : s.rem = (byteAt s 2).setWidth 16) : declaredLen (stored b s) = lengthHigh s.rem b := by
  have hhigh : byteAt (stored b s) 3 = b := hcur ▸ byteAt_stored_cur hwf
  rw [declaredLen, byteAt_stored_of_ne (by omega), hhigh, hrem]
  exact (lengthHigh_lengthLow _ b).symm

/-- `n` bytes of a frame of the declared length are still to come: the row of the state `afterCount` gives (R69, R70). -/
theorem invRow_afterCount {n : Half} {t : State} (hrem : t.rem = n)
    (hcur : t.cur + n.toNat = 8 + (declaredLen t).toNat) (hle : n.toNat ≤ (declaredLen t).toNat)
    (hbounded : LengthBounded t) (hmagic : MagicHeld t) : InvRow t (afterCount n) := by
  subst hrem
  unfold afterCount
  split
  case isTrue hzero =>
    rw [hzero, BitVec.toNat_zero] at hcur
    exact ⟨hcur, hzero, hbounded, hmagic⟩
  case isFalse hne =>
    have hpos : t.rem.toNat ≠ 0 := fun h => hne (BitVec.eq_of_toNat_eq h)
    exact ⟨hcur, by omega, hle, hbounded, hmagic⟩

/-- An accepted byte leads from its row to the row of the next state (R76). -/
theorem InvRow.accept {p q : ParseState} {n : Half} (hrow : InvRow s p) (hwf : Memory.wf s.cfg.bufInit s.buf = true)
    (hcap : 10 ≤ s.cfg.capacity) (h : accepts s.cfg.capacity s.rem b p = some (q, n)) :
    InvRow (((stored b s).setRem n).advance q) q := by
  have hlast : byteAt (stored b s) s.cur = b := byteAt_stored_cur hwf
  cases p
  case newMessage | waitStart | waitChecksumH | error => cases h
  case waitHeader =>
    obtain ⟨hmagic, ⟨⟩⟩ := Option.ite_none_right_eq_some.mp h
    obtain ⟨hcur, hfirst⟩ := hrow
    rw [hcur] at hlast
    exact ⟨congrArg (· + 1) hcur, (byteAt_stored_of_ne (by omega)).trans hfirst, hlast.trans hmagic⟩
  case waitLengthL =>
    cases h
    obtain ⟨hcur, hmagic⟩ := hrow
    rw [hcur] at hlast
    exact ⟨congrArg (· + 1) hcur, congrArg (BitVec.setWidth 16) hlast.symm, hmagic.stored (by omega)⟩
  case waitLengthH =>
    cases h
    obtain ⟨hcur, hrem, hmagic⟩ := hrow
    have hlen := declaredLen_stored_lengthHigh (b := b) hwf hcur hrem
    rw [afterLength_eq]
    split
    case isTrue hfits =>
      refine ⟨congrArg (· + 1) hcur, hlen.symm, ?_, hmagic.stored (by omega)⟩
      exact (congrArg (·.toNat + overhead ≤ s.cfg.capacity) hlen).mpr hfits
    case isFalse =>
      show s.cur + 1 ≤ s.cfg.capacity
      omega
  case waitMsgIdL | waitMsgIdH | waitSrcId =>
    cases h
    obtain ⟨hcur, hid⟩ := hrow
    exact ⟨congrArg (· + 1) hcur, hid.stored (by omega)⟩
  case waitDstId =>
    cases h
    obtain ⟨hcur, hid⟩ := hrow
    obtain ⟨hrem, hbounded, hmagic⟩ := IdRow.stored (b := b) hid (by omega)
    have hlen : s.rem.toNat = (declaredLen (stored b s)).toNat := congrArg BitVec.toNat hrem
    refine invRow_afterCount rfl ?_ hlen.le hbounded hmagic
    show s.cur + 1 + s.rem.toNat = 8 + (declaredLen (stored b s)).toNat
    omega
  case waitPayload =>
    cases h
    obtain ⟨hcur, hpos, hle, hbounded, hmagic⟩ := hrow
    have hlen := declaredLen_stored (s := s) (b := b) (by omega)
    have hcount : (s.rem - 1#16).toNat + 1 = s.rem.toNat := by bv_omega
    refine invRow_afterCount rfl ?_ ?_ (hbounded.stored (by omega)) (hmagic.stored (by omega))
    · show s.cur + 1 + (s.rem - 1#16).toNat = 8 + (declaredLen (stored b s)).toNat
      rw [hlen]
      omega
    · show (s.rem - 1#16).toNat ≤ (declaredLen (stored b s)).toNat
      rw [hlen]
      omega
  case waitChecksumL =>
    cases h
    obtain ⟨hcur, hrem, hbounded, hmagic⟩ := hrow
    refine ⟨?_, hrem, hbounded.stored (by omega), hmagic.stored (by omega)⟩
    show s.cur + 1 = 9 + (declaredLen (stored b s)).toNat
    rw [declaredLen_stored (by omega)]
    omega

end

end Sys2Proof.Machine
end

section
/-! The ports under every instruction: what a command can respond (R51, R73, R80 to R82), and that the counters, the response
and the cells stay what R8, R21, R22, R28 and R51 let them be. -/

namespace Sys2Proof.Machine

theorem exec_readBuf_of_lt {s : State} {addr : BitVec 24} (h : addr.toNat < s.cfg.capacity) :
    exec (.readBuf addr) s = .next (s.respond (byteAt s addr.toNat).toNat) := by
  change execReadBuf addr s = _
  rw [execReadBuf, addrOperand, memRead_of_lt h]

/-- A byte is answered by a `PS` code (R73). -/
theorem ByteAnswer.resp {b : Byte} {s t : State} (h : ByteAnswer b s t) : ∃ p : ParseState, t.resp = some p.code.toNat := by
  cases h with
  | judged valid => exact ⟨_, State.verdict_resp valid _⟩
  | ignored | resynced | begun | accepted => exact ⟨_, rfl⟩

/-- A command responds with a code, 0, a byte of the buffer or a counter. -/
theorem exec_resp {i : Instr} {s t : State} (h : exec i s = .next t) :
    ∃ r, t.resp = some r ∧ (r < 256 ∨ r = s.parsed ∨ r = s.errors) := by
  have hbyte {b : Byte} (hi : i = .parseByte b ∨ ∃ p, armOf p b = some i) :
      ∃ r, t.resp = some r ∧ (r < 256 ∨ r = s.parsed ∨ r = s.errors) := by
    obtain ⟨p, hp⟩ := (byteAnswer_of_exec hi h).resp
    exact ⟨_, hp, .inl (p.code.isLt.trans (by decide))⟩
  rcases instr_command_or_arm i with ⟨b, hi⟩ | rfl | ⟨a, rfl⟩ | rfl | rfl | ⟨p, b, harm⟩
  · exact hbyte (.inl hi)
  · cases h
    exact ⟨0, rfl, .inl (by decide)⟩
  · rcases Nat.lt_or_ge a.toNat s.cfg.capacity with hlt | hge
    · obtain rfl := Host.Outcome.next.inj ((exec_readBuf_of_lt hlt).symm.trans h)
      exact ⟨_, rfl, .inl (byteAt s a.toNat).isLt⟩
    · exact nomatch (exec_readBuf_of_ge hge).symm.trans h
  · cases h
    exact ⟨_, rfl, .inr (.inl rfl)⟩
  · cases h
    exact ⟨_, rfl, .inr (.inr rfl)⟩
  · exact hbyte (.inr ⟨p, harm⟩)

/-- The counters keep to their width (R8, R21, R22). -/
theorem exec_counters_lt {i : Instr} {s t : State} (hparsed : s.parsed < 2 ^ s.cfg.cntW)
    (herrors : s.errors < 2 ^ s.cfg.cntW) (h : exec i s = .next t) :
    t.parsed < 2 ^ s.cfg.cntW ∧ t.errors < 2 ^ s.cfg.cntW := by
  have hmod (n : Nat) : n % 2 ^ s.cfg.cntW < 2 ^ s.cfg.cntW := Nat.mod_lt _ (Nat.two_pow_pos _)
  rcases countersMoveOnlyOnVerdict i s t h with ⟨hp, he⟩ | ⟨-, -, -, ⟨-, hp, he⟩ | ⟨-, he, hp⟩⟩ <;> rw [hp, he]
  · exact ⟨hparsed, herrors⟩
  · exact ⟨hmod _, herrors⟩
  · exact ⟨hparsed, hmod _⟩

theorem exec_portsWf {i : Instr} {s t : State} (hs : PortsWf s) (h : exec i s = .next t) : PortsWf t := by
  obtain ⟨hvalid, hparsed, herrors, -, hcells⟩ := hs
  obtain ⟨hcfg, -⟩ := exec_cfg_pending h
  obtain ⟨hparsed', herrors'⟩ := exec_counters_lt hparsed herrors h
  obtain ⟨r, hr, hcases⟩ := exec_resp h
  have hbyte : 256 ≤ 2 ^ max 32 s.cfg.cntW :=
    (by decide : 256 ≤ 2 ^ 32).trans (Nat.pow_le_pow_right (by decide) (le_max_left ..))
  have hwidth : 2 ^ s.cfg.cntW ≤ 2 ^ max 32 s.cfg.cntW := Nat.pow_le_pow_right (by decide) (le_max_right ..)
  have hbound : r < 2 ^ max 32 s.cfg.cntW := by
    rcases hcases with hlt | rfl | rfl
    · exact hlt.trans_le hbyte
    · exact hparsed.trans_le hwidth
    · exact herrors.trans_le hwidth
  have hcells' : CellsWf t := exec_cellsWf hcells h
  refine ⟨?_, ?_, ?_, ?_, hcells'⟩
  · rwa [hcfg]
  · rwa [hcfg]
  · rwa [hcfg]
  · rw [hcfg, hr]
    rintro _ ⟨⟩
    exact hbound

end Sys2Proof.Machine
end

section
/-! `PARSE_BYTE` from a state of the invariant: it completes, by the table of R75, and ends in a row of R76. -/

namespace Sys2Proof.Machine

section
variable {s : State} {p : ParseState} {b : Byte}

theorem exec_parseByte_of_begin (hst : s.st = ParseState.waitStart.code) (hroom : 0 < s.cfg.capacity) (hb : b = magicB) :
    exec (.parseByte b) s = .next ((stored b (s.setCur 0)).advance .waitHeader) := by
  refine (exec_parseByte_of_st hst rfl).trans ((inArm_of_eq hst _).trans ((if_pos hb).trans ?_))
  exact andThen_store_of_lt (s := s.setCur 0) hroom b _

theorem exec_parseByte_of_ignored (hst : s.st = ParseState.waitStart.code) (hb : b ≠ magicB) :
    exec (.parseByte b) s = .next ((s.setCur 0).advance .waitStart) :=
  (exec_parseByte_of_st hst rfl).trans ((inArm_of_eq hst _).trans (if_neg hb))

theorem exec_parseByte_of_mismatch (hst : s.st = ParseState.waitHeader.code) (hb : b ≠ magicR) :
    exec (.parseByte b) s = .next (s.advance .waitStart) :=
  (exec_parseByte_of_st hst rfl).trans ((inArm_of_eq hst _).trans (if_neg hb))

/-- A running state accepts the byte by the table `accepts`, searches, finds no magic, or ends a frame. -/
theorem exists_accepts (c : Nat) (r : Half) (b : Byte) (hp : p.running = true) :
    p = .waitStart ∨ (p = .waitHeader ∧ b ≠ magicR) ∨ p = .waitChecksumH ∨ ∃ q n, accepts c r b p = some (q, n) := by
  cases p
  case newMessage | error => cases hp
  case waitStart => exact .inl rfl
  case waitChecksumH => exact .inr (.inr (.inl rfl))
  case waitHeader =>
    by_cases hb : b = magicR
    · exact .inr (.inr (.inr ⟨_, _, if_pos hb⟩))
    · exact .inr (.inl ⟨rfl, hb⟩)
  all_goals exact .inr (.inr (.inr ⟨_, _, rfl⟩))

/-- The length in `lengthHigh` is the little-endian value of the low byte in `rem` and the byte taken (R65). -/
theorem lengthHigh_eq (r : Half) (b : Byte) : lengthHigh r b = leHalf (r.setWidth 8) b := BitVec.or_comm ..

/-- Counting the last payload byte leaves none (R70). -/
theorem afterCount_sub_one (r : Half) : afterCount (r - 1#16) = if r = 1#16 then .waitChecksumL else .waitPayload := by
  have hlast : r - 1#16 = 0#16 ↔ r = 1#16 := by bv_omega
  simp only [afterCount, hlast]

/-! R75's rows of the three states in which a byte may do other than lead on: `WAIT_START` and `WAIT_HEADER` search, and
`WAIT_CHECKSUM_H` judges. -/

theorem transition_waitStart (hst : s.st = ParseState.waitStart.code) (b : Byte) :
    transition s b = if b = magicB then (.waitHeader, .waitHeader) else (.waitStart, .waitStart) := by
  rw [transition, hst, ofCode_code]

theorem transition_waitHeader (hst : s.st = ParseState.waitHeader.code) (b : Byte) :
    transition s b = if b = magicR then (.waitLengthL, .waitLengthL) else (.waitStart, .waitStart) := by
  rw [transition, hst, ofCode_code]

theorem transition_waitChecksumH (hst : s.st = ParseState.waitChecksumH.code) (b : Byte) :
    transition s b = (.waitStart, if frameChecks (stored b s) then .newMessage else .error) := by
  rw [transition, hst, ofCode_code]
  exact (apply_ite (Prod.mk ParseState.waitStart) _ _ _).symm

/-- R75 lists for an accepted byte the state its arm leads to (R63 to R71). -/
theorem transition_of_accepts {q : ParseState} {n : Half} (hst : s.st = p.code) (hcap : 10 ≤ s.cfg.capacity)
    (h : accepts s.cfg.capacity s.rem b p = some (q, n)) : transition s b = (q, q) := by
  unfold transition
  rw [hst, ofCode_code]
  cases p
  case waitHeader =>
    obtain ⟨hmagic, ⟨⟩⟩ := Option.ite_none_right_eq_some.mp h
    exact if_pos hmagic
  all_goals cases h
  case waitLengthH =>
    have hfits (n : Nat) : n + overhead ≤ s.cfg.capacity ↔ n ≤ s.cfg.capacity - 10 := (Nat.le_sub_iff_add_le hcap).symm
    simp only [afterLength_eq, lengthHigh_eq, hfits]
    split <;> rfl
  case waitDstId =>
    simp only [afterCount]
    split <;> rfl
  case waitPayload =>
    simp only [afterCount_sub_one]
    split <;> rfl
  all_goals rfl

/-- The columns of R75 but for the byte stored, and the row of R76 that holds after the byte. -/
structure TableStep (s : State) (b : Byte) (t : State) : Prop where
  st : t.st = (transition s b).1.code
  resp : t.resp = some (transition s b).2.code.toNat
  parsed : t.parsed = if (transition s b).2 = .newMessage then (s.parsed + 1) % 2 ^ s.cfg.cntW else s.parsed
  errors : t.errors = if (transition s b).2 = .error then (s.errors + 1) % 2 ^ s.cfg.cntW else s.errors
  row : InvRow t (transition s b).1

/-- Every byte but a verdict's answers the state it leads to and counts nothing (R73). -/
theorem TableStep.advance {u : State} {q : ParseState} (htable : transition s b = (q, q)) (hrow : InvRow (u.advance q) q)
    (hparsed : u.parsed = s.parsed) (herrors : u.errors = s.errors) : TableStep s b (u.advance q) := by
  have hnoMessage : q ≠ .newMessage := by
    rintro rfl
    exact hrow
  have hnoError : q ≠ .error := by
    rintro rfl
    exact hrow
  constructor <;> rw [htable]
  case st | resp => rfl
  case parsed => rwa [if_neg hnoMessage]
  case errors => rwa [if_neg hnoError]
  case row => exact hrow

/-- The verdict counts the frame and searches again (R72). -/
theorem TableStep.verdict (hst : s.st = ParseState.waitChecksumH.code) (hroom : s.cur < s.cfg.capacity) :
    TableStep s b ((stored b s).verdict (frameChecks (stored b s))) := by
  have htable := transition_waitChecksumH hst b
  constructor <;> rw [htable]
  case st => exact State.verdict_st ..
  case resp => exact State.verdict_resp ..
  case parsed =>
    rw [State.verdict_parsed]
    cases frameChecks (stored b s) <;> rfl
  case errors =>
    rw [State.verdict_errors]
    cases frameChecks (stored b s) <;> rfl
  case row =>
    rw [InvRow, State.verdict_cur, State.verdict_cfg]
    exact hroom

/-- From a row of R76 `PARSE_BYTE` completes, by the table of R75. -/
theorem InvRow.exists_exec_parseByte (hrow : InvRow s p) (hst : s.st = p.code) (hports : PortsWf s) (b : Byte) :
    ∃ t, exec (.parseByte b) s = .next t ∧ TableStep s b t := by
  have hcap := hports.ten_le
  obtain ⟨-, -, -, -, hwf, -⟩ := hports
  rcases exists_accepts s.cfg.capacity s.rem b hrow.running with rfl | ⟨rfl, hb⟩ | rfl | ⟨q, n, haccepts⟩
  · have htable := transition_waitStart hst b
    by_cases hb : b = magicB
    · have hfirst : byteAt (stored b (s.setCur 0)) 0 = b := byteAt_stored_cur (s := s.setCur 0) hwf
      exact ⟨_, exec_parseByte_of_begin hst (by omega) hb,
        .advance (htable.trans (if_pos hb)) ⟨rfl, hfirst.trans hb⟩ rfl rfl⟩
    · exact ⟨_, exec_parseByte_of_ignored hst hb, .advance (htable.trans (if_neg hb)) (Nat.zero_le _) rfl rfl⟩
  · have htable := (transition_waitHeader hst b).trans (if_neg hb)
    have hle : s.cur ≤ s.cfg.capacity := (hrow.cur_lt (by decide) hcap).le
    exact ⟨_, exec_parseByte_of_mismatch hst hb, .advance htable hle rfl rfl⟩
  · have hroom := hrow.cur_lt (by decide) hcap
    obtain ⟨hcur, -, hbounded, -⟩ := hrow
    have hframe : 9 + (declaredLen (stored b s)).toNat < s.cfg.capacity := by
      rw [declaredLen_stored (by omega)]
      omega
    exact ⟨_, exec_parseByte_of_verdict hst hroom hframe, .verdict hst hroom⟩
  · have hne : p ≠ .waitStart := by
      rintro rfl
      cases haccepts
    exact ⟨_, exec_parseByte_of_accepts hst (hrow.cur_lt hne hcap) haccepts,
      .advance (transition_of_accepts hst hcap haccepts) (hrow.accept hwf hcap haccepts) rfl rfl⟩

/-- What a byte leaves at each offset: itself where it is stored (R29, R33). -/
theorem ByteAnswer.byteAt_eq {t : State} (h : ByteAnswer b s t) (hwf : Memory.wf s.cfg.bufInit s.buf = true) (k : Nat) :
    byteAt t k = if stores s b = true ∧ k = storeOffset s then b else byteAt s k := by
  obtain ⟨hcfg, -⟩ := h.cfg_pending
  rcases h.buf with ⟨hstores, hbuf⟩ | ⟨hstores, -, hbuf⟩
  · simp [hstores, byteAt_congr hcfg hbuf]
  · rw [byteAt, hcfg, hbuf, Memory.read_write hwf]
    simp [hstores, byteAt]

end

/-- Settles O28: `PARSE_BYTE` row by row of R76; the byte stored is where R75 lists it, because the row fixes `cur`. -/
theorem transitionFunction : Obligations.TransitionFunction := by
  intro s hs
  obtain ⟨hports, p, hst, hrow⟩ := framerInv_iff.mp hs
  refine ⟨fun b => ?_, ⟨_, rfl, rfl⟩, fun t hread => ?_⟩
  · obtain ⟨t, ht, hstep⟩ := hrow.exists_exec_parseByte hst hports b
    obtain ⟨-, -, -, -, hwf, -⟩ := hports
    rw [hrow.tableOffset_eq hst]
    exact ⟨t, ht, hstep.st, hstep.resp, (byteAnswer_of_exec (.inl rfl) ht).byteAt_eq hwf, hstep.parsed, hstep.errors⟩
  · have hanswer : ∃ v, t = s.respond v := by
      rcases hread with h | h | ⟨a, h⟩
      · exact IsRead.exec_next (.inl rfl) h
      · exact IsRead.exec_next (.inr (.inl rfl)) h
      · exact IsRead.exec_next (.inr (.inr ⟨a, rfl⟩)) h
    obtain ⟨v, rfl⟩ := hanswer
    rfl

end Sys2Proof.Machine
end

section
/-! The invariant of R76 along a run: it holds after construction (R101), and every instruction keeps it. -/

namespace Sys2Proof.Machine

/-- A read leaves the rows, `RESET` leads to the row of `WAIT_START`, and a byte to the row R75 lists. -/
theorem exec_framerInv {i : Instr} {s t : State} (hs : FramerInv s) (h : exec i s = .next t) : FramerInv t := by
  have ⟨hportsBefore, hrows⟩ := hs
  have hports := exec_portsWf hportsBefore h
  rcases exec_next_cases h with ⟨v, rfl⟩ | rfl | ⟨p, b, hst, hi, -⟩
  · exact ⟨hports, hrows⟩
  · exact framerInv_iff.mpr ⟨hports, .waitStart, rfl, Nat.zero_le _⟩
  · have hbyte : exec (.parseByte b) s = .next t := by
      rcases hi with rfl | harm
      · exact h
      · exact (exec_parseByte_of_st hst harm).trans h
    obtain ⟨-, q, hq, hrow⟩ := framerInv_iff.mp hs
    obtain ⟨u, hu, hstep⟩ := hrow.exists_exec_parseByte hq hportsBefore b
    obtain rfl := Host.Outcome.next.inj (hu.symm.trans hbyte)
    exact framerInv_iff.mpr ⟨hports, _, hstep.st, hstep.row⟩

theorem step_framerInv {s t : State} (hs : FramerInv s) (h : step s = .next t) : FramerInv t :=
  step_preserves (P := FramerInv) (fun _ _ hs => hs) (fun _ _ _ => exec_framerInv) hs h

/-- Construction answers with the power-on state of a configuration R7 and R8 allow. -/
theorem construct_next {c : Config} {s : State} (h : construct c = .next s) : configValid c = true ∧ s = State.powerOn c := by
  by_cases hcap : c.capacity < 10 ∨ 2 ^ 24 < c.capacity
  · exact nomatch (construct_of_capacity_outside hcap).symm.trans h
  · rw [construct_of_capacity_inside hcap] at h
    split at h
    case isTrue => cases h
    case isFalse hwidth =>
      exact ⟨configValid_iff.mpr ⟨by omega, by omega, by omega⟩, (Host.Outcome.next.inj h).symm⟩

theorem framerInv_powerOn {c : Config} (h : configValid c = true) : FramerInv (State.powerOn c) := by
  have hzero : 0 < 2 ^ c.cntW := Nat.two_pow_pos _
  exact framerInv_iff.mpr ⟨⟨h, hzero, hzero, nofun, rfl, nofun⟩, .waitStart, rfl, Nat.zero_le _⟩

/-- What every step keeps holds of every state a run answers. -/
theorem run_preserves {P : State → Prop} (hstep : ∀ s t, P s → step s = .next t → P t) {n : Nat} {s t : State} (hs : P s)
    (h : Host.Core.run core n s = .next t) : P t := by
  induction n generalizing s with
  | zero =>
    obtain rfl := Host.Outcome.next.inj h
    exact hs
  | succ n ih =>
    rcases hfirst : step s with u | f | r
    · exact ih (hstep s u hs hfirst) ((run_next hfirst).symm.trans h)
    · exact nomatch (run_fault hfirst).symm.trans h
    · exact nomatch (run_refused hfirst).symm.trans h

/-- Settles O46: the commands to come are no part of the invariant, so the run starts in it, and every step keeps it. -/
theorem everyReachedStateMeetsInvariant : Obligations.EveryReachedStateMeetsInvariant := by
  intro c s t ws n hconstruct hrun
  obtain ⟨hvalid, rfl⟩ := construct_next hconstruct
  have hstart : FramerInv { State.powerOn c with pending := ws } := framerInv_powerOn hvalid
  exact run_preserves (fun _ _ => step_framerInv) hstart hrun

end Sys2Proof.Machine
end

section
/-! The arms of 41_parse_byte: the dispatch (R59, R74) and each arm's whole next state (R62 to R72). -/

namespace Sys2Proof.Machine

/-- A command row has one word (R46). -/
theorem decode_eq_ok_iff_eq_encode {w : Word} {i : Instr} (hi : i.armState = none) : decode w = .ok i ↔ w = encode i :=
  ⟨fun h => (encode_of_decode h).symm, fun h => h ▸ decode_encode hi⟩

theorem parseByte_word (b : Byte) : 0x10000000#32 ||| b.setWidth 32 = encode (.parseByte b) := by
  revert b
  decide

/-- Where `st` selects no arm, a byte faults (R74). -/
theorem exec_parseByte_of_no_arm {s : State} {b : Byte} (h : (ParseState.ofCode s.st).bind (armOf · b) = none) :
    exec (.parseByte b) s = .fault (.illegalState s.st) := by
  rw [exec_parseByte_eq, h]
  rfl

/-- Settles O14: the arm of the state in `st` runs, a row writes at its store offset only, and a command row has one word. -/
theorem parseByteRunsItsArm : Obligations.ParseByteRunsItsArm := fun _ b =>
  ⟨fun _ _ => exec_parseByte_of_st, exec_parseByte_of_no_arm, fun _ h _ => exec_byteAt_of_ne h,
    fun _ => parseByte_word b ▸ decode_eq_ok_iff_eq_encode rfl⟩

/-- Settles O25: none of the five codes selects an arm. -/
theorem illegalStateFaults : Obligations.IllegalStateFaults := by
  intro s b hst
  refine exec_parseByte_of_no_arm ?_
  rcases hst with hst | hst | hst | hst | hst <;> rw [hst] <;> rfl

/-- Settles O15: the first magic byte begins a frame at offset 0; any other byte is ignored. -/
theorem waitStartArm : Obligations.WaitStartArm := by
  intro s b hst hcap
  have harm : exec (.parseByte b) s = exec (.parseByteWaitStart b) s := exec_parseByte_of_st (p := .waitStart) hst rfl
  refine ⟨fun hb => harm ▸ exec_parseByte_of_begin hst (by omega) hb, fun hb => ?_⟩
  rw [← harm, exec_parseByte_of_ignored hst hb]
  exact congrArg (fun c => Host.Outcome.next { s with cur := 0, st := c, resp := some 1 }) hst.symm

section
variable {s : State} {p q : ParseState} {b : Byte} {i : Instr} {n : Half}

/-- The whole next state of an arm that accepts its byte at `cur`: nothing is written but the five fields named. -/
theorem exec_arm_of_accepts (hst : s.st = p.code) (harm : armOf p b = some i) (hroom : s.cur < s.cfg.capacity)
    (h : accepts s.cfg.capacity s.rem b p = some (q, n)) :
    exec i s = .next { s with
      buf := Memory.write s.cfg.bufInit s.buf s.cur b, cur := s.cur + 1, rem := n, st := q.code,
      resp := some q.code.toNat } :=
  (exec_parseByte_of_st hst harm).symm.trans (exec_parseByte_of_accepts hst hroom h)

end

/-- Settles O16: the second magic byte is accepted, and any other byte is discarded. -/
theorem waitHeaderArm : Obligations.WaitHeaderArm := fun _ _ hst =>
  ⟨fun hb hroom => exec_arm_of_accepts (p := .waitHeader) hst rfl hroom (if_pos hb),
    fun hb => (exec_parseByte_of_st (p := .waitHeader) hst rfl).symm.trans (exec_parseByte_of_mismatch hst hb)⟩

/-- Settles O17: the byte is accepted and opens the length. -/
theorem waitLengthLArm : Obligations.WaitLengthLArm := fun _ _ hst hroom =>
  exec_arm_of_accepts (p := .waitLengthL) hst rfl hroom rfl

/-- The length the high byte completes, in exact numbers (R65). -/
theorem toNat_lengthHigh (r : Half) (b : Byte) : (lengthHigh r b).toNat = r.toNat % 256 + 256 * b.toNat := by
  rw [lengthHigh_eq, fieldsAreLittleEndian, BitVec.toNat_setWidth]

/-- The bounds check as R65 writes it, `L ≤ C − 10`, and the state it leads to. -/
theorem afterLength_of_ten_le {c : Nat} (hcap : 10 ≤ c) (len : Half) :
    afterLength c len = if len.toNat ≤ c - 10 then .waitMsgIdL else .waitStart := by
  rw [afterLength_eq]
  exact if_congr (Nat.le_sub_iff_add_le hcap).symm rfl rfl

/-- Settles O18: `lengthHigh` is the length, and `afterLength` its bounds check. -/
theorem waitLengthHArm : Obligations.WaitLengthHArm := by
  intro s b l hst hroom hcap hl
  obtain rfl : lengthHigh s.rem b = l := BitVec.eq_of_toNat_eq ((toNat_lengthHigh s.rem b).trans hl.symm)
  rw [exec_arm_of_accepts (p := .waitLengthH) hst rfl hroom rfl, afterLength_of_ten_le hcap]
  split <;> rfl

/-- Settles O19: each of the three arms accepts its byte and leads to the next state. -/
theorem identifierArms : Obligations.IdentifierArms := fun _ _ hroom =>
  ⟨fun hst => exec_arm_of_accepts (p := .waitMsgIdL) hst rfl hroom rfl,
    fun hst => exec_arm_of_accepts (p := .waitMsgIdH) hst rfl hroom rfl,
    fun hst => exec_arm_of_accepts (p := .waitSrcId) hst rfl hroom rfl⟩

/-- Settles O20: the byte is accepted, and `afterCount` skips a payload of length 0. -/
theorem waitDstIdArm : Obligations.WaitDstIdArm := by
  intro s b hst hroom
  rw [exec_arm_of_accepts (p := .waitDstId) hst rfl hroom rfl, afterCount]
  split <;> rfl

/-- Settles O21: with `rem` at least 1 the count goes down without a wrap, and at 0 the payload is over. -/
theorem waitPayloadArm : Obligations.WaitPayloadArm := by
  intro s b r hst hroom hrem
  have hcount : s.rem - 1#16 = r := by bv_omega
  rw [exec_arm_of_accepts (p := .waitPayload) hst rfl hroom rfl, hcount, afterCount]
  split <;> rfl

/-- Settles O22: the byte is accepted and leads to the last one. -/
theorem waitChecksumLArm : Obligations.WaitChecksumLArm := fun _ _ hst hroom =>
  exec_arm_of_accepts (p := .waitChecksumL) hst rfl hroom rfl

/-- The declared length in exact numbers (R48, R60). -/
theorem toNat_declaredLen (s : State) : (declaredLen s).toNat = (byteAt s 2).toNat + 256 * (byteAt s 3).toNat :=
  fieldsAreLittleEndian ..

/-- The checksum predicate in exact numbers (R61). -/
theorem frameChecks_iff (s : State) :
    frameChecks s = true ↔
      (byteAt s (8 + (declaredLen s).toNat)).toNat + 256 * (byteAt s (9 + (declaredLen s).toNat)).toNat
        = (checksum s.cfg.cksum ((List.range (8 + (declaredLen s).toNat)).map (byteAt s))).toNat := by
  rw [frameChecks, beq_iff_eq, ← BitVec.toNat_inj, fieldsAreLittleEndian]

/-- Settles O23: the frame lies in the buffer, so `VERIFY` answers `frameChecks`, and the verdict counts by it. -/
theorem waitChecksumHArm : Obligations.WaitChecksumHArm := by
  rintro s t b l hst hroom (rfl : t = stored b s) hl hframe
  obtain rfl : (declaredLen (stored b s)).toNat = l := (toNat_declaredLen _).trans hl.symm
  have harm : exec (.parseByte b) s = exec (.parseByteWaitChecksumH b) s :=
    exec_parseByte_of_st (p := .waitChecksumH) hst rfl
  rw [← harm, exec_parseByte_of_verdict hst hroom hframe]
  refine congrArg Host.Outcome.next ?_
  split
  case isTrue hsum => rw [(frameChecks_iff _).mpr hsum]; rfl
  case isFalse hsum => rw [Bool.eq_false_of_not_eq_true (mt (frameChecks_iff _).mp hsum)]; rfl

end Sys2Proof.Machine
end

section
/-! The frames of the arms (R62 to R73): the response of a byte, and what each kind of arm leaves as it was. -/

namespace Sys2Proof.Machine

/-- The arm of the last byte answers by a verdict on the stored byte (R72). -/
theorem exec_waitChecksumH_next {b : Byte} {s t : State} (h : exec (.parseByteWaitChecksumH b) s = .next t) :
    ∃ valid, t = (stored b s).verdict valid := by
  obtain ⟨-, h⟩ := inArm_next_iff.mp h
  obtain ⟨-, h⟩ := andThen_store_next_iff.mp h
  split at h
  case h_1 => cases h
  case h_2 valid _ => exact ⟨valid, (Host.Outcome.next.inj h).symm⟩

/-- Only a verdict's response is not the code of the state the byte leads to (R73). -/
theorem ByteAnswer.resp_eq_st {b : Byte} {s t : State} (h : ByteAnswer b s t)
    (hst : s.st ≠ ParseState.waitChecksumH.code) : t.resp = some t.st.toNat := by
  cases h with
  | judged _ hlast => exact absurd hlast hst
  | ignored | resynced | begun | accepted => rfl

/-- Settles O24: every byte but a frame's last advances, and the last one is judged. -/
theorem responseOfParseByte : Obligations.ResponseOfParseByte := by
  intro s t b h
  refine ⟨(byteAnswer_of_exec (.inl rfl) h).resp_eq_st, fun hst => ?_⟩
  rw [exec_parseByte_of_st (p := .waitChecksumH) hst rfl] at h
  obtain ⟨valid, rfl⟩ := exec_waitChecksumH_next h
  exact ⟨State.verdict_st .., (verdict_counts _ valid).imp And.left And.left⟩

/-- Settles O38: the length, the stored checksum and the body are all read at offsets up to `9 + L`. -/
theorem verifyReadsOnlyTheFrame : Obligations.VerifyReadsOnlyTheFrame := by
  intro s t hcfg hframe hbytes
  have hlen : declaredLen t = declaredLen s := by
    rw [declaredLen, hbytes 2 (by omega), hbytes 3 (by omega), declaredLen]
  have hbody : (List.range (8 + (declaredLen s).toNat)).map (byteAt t)
      = (List.range (8 + (declaredLen s).toNat)).map (byteAt s) :=
    List.map_congr_left fun k hk => hbytes k (by have := List.mem_range.mp hk; omega)
  rw [verify_of_lt hframe, verify_of_lt (by rwa [hlen, ← hcfg])]
  simp only [frameChecks, hlen, hbody, hbytes _ (Nat.le_refl _), hbytes (8 + (declaredLen s).toNat) (by omega), hcfg]

section
variable {b : Byte} {i : Instr} {s t : State} {p q : ParseState} {n : Half}

/-- An arm that accepts its byte answers the stored byte's state, advanced (R63 to R71). -/
theorem exec_arm_next_of_accepts (harm : armOf p b = some i) (haccepts : accepts s.cfg.capacity s.rem b p = some (q, n))
    (h : exec i s = .next t) : t = ((stored b s).setRem n).advance q := by
  cases p
  case waitHeader =>
    obtain ⟨hmagic, ⟨⟩⟩ := Option.ite_none_right_eq_some.mp haccepts
    cases harm
    obtain ⟨-, h⟩ := inArm_next_iff.mp h
    obtain ⟨-, ⟨⟩⟩ := andThen_store_next_iff.mp ((if_pos hmagic).symm.trans h)
    rfl
  all_goals cases haccepts
  all_goals
    cases harm
    obtain ⟨-, h⟩ := inArm_next_iff.mp h
    obtain ⟨-, ⟨⟩⟩ := andThen_store_next_iff.mp h
    rfl

/-- What an arm that accepts its byte leaves but for `rem`. -/
theorem exec_arm_frame_of_accepts (harm : armOf p b = some i)
    (haccepts : accepts s.cfg.capacity s.rem b p = some (q, n)) (h : exec i s = .next t) :
    t.parsed = s.parsed ∧ t.errors = s.errors ∧ t.cfg = s.cfg ∧ t.pending = s.pending ∧ t.cur = s.cur + 1 ∧
      ∀ k, k ≠ s.cur → byteAt t k = byteAt s k := by
  obtain rfl := exec_arm_next_of_accepts harm haccepts h
  exact ⟨rfl, rfl, rfl, rfl, rfl, fun _ => byteAt_stored_of_ne⟩

end

/-- Settles O40: the three arms accept every byte. -/
theorem lengthAndPayloadArmsFrame : Obligations.LengthAndPayloadArmsFrame := by
  intro s t b i hi h
  simp only [List.mem_cons, List.not_mem_nil, or_false] at hi
  rcases hi with rfl | rfl | rfl
  · exact exec_arm_frame_of_accepts (p := .waitLengthL) rfl rfl h
  · exact exec_arm_frame_of_accepts (p := .waitLengthH) rfl rfl h
  · exact exec_arm_frame_of_accepts (p := .waitPayload) rfl rfl h


/-- The length arms and the payload arm write `rem`; every other arm leaves it. -/
theorem exec_arm_rem {p : ParseState} {b : Byte} {i : Instr} {s t : State} (harm : armOf p b = some i)
    (hp : p ∉ [ParseState.waitLengthL, .waitLengthH, .waitPayload]) (h : exec i s = .next t) : t.rem = s.rem := by
  cases p
  case newMessage | error => cases harm
  case waitLengthL | waitLengthH | waitPayload => exact absurd (by decide) hp
  case waitStart | waitHeader =>
    cases harm
    obtain ⟨-, h⟩ := inArm_next_iff.mp h
    split at h
    case isTrue =>
      obtain ⟨-, ⟨⟩⟩ := andThen_store_next_iff.mp h
      rfl
    case isFalse =>
      cases h
      rfl
  case waitChecksumH =>
    cases harm
    obtain ⟨valid, rfl⟩ := exec_waitChecksumH_next h
    exact State.verdict_rem ..
  all_goals
    obtain rfl := exec_arm_next_of_accepts harm rfl h
    rfl

/-- Only the arm of the last byte moves a counter (R72). -/
theorem exec_arm_counters {p : ParseState} {b : Byte} {i : Instr} {s t : State} (harm : armOf p b = some i)
    (hp : p ≠ .waitChecksumH) (h : exec i s = .next t) : t.parsed = s.parsed ∧ t.errors = s.errors := by
  obtain ⟨hst, hans⟩ := exec_arm_next harm h
  exact hans.counters.resolve_right fun ⟨hlast, _⟩ => hp (code_inj.mp (hst.symm.trans hlast))

/-- Settles O39: none of the seven arms is one that writes `rem` or judges a frame. -/
theorem advancingArmsFrame : Obligations.AdvancingArmsFrame := by
  intro s t b i hi h
  obtain ⟨p, harm, hrem, hlast⟩ : ∃ p, armOf p b = some i ∧
      p ∉ [ParseState.waitLengthL, .waitLengthH, .waitPayload] ∧ p ≠ .waitChecksumH := by
    simp only [List.mem_cons, List.not_mem_nil, or_false] at hi
    rcases hi with rfl | rfl | rfl | rfl | rfl | rfl | rfl
    · exact ⟨.waitStart, rfl, by decide⟩
    · exact ⟨.waitHeader, rfl, by decide⟩
    · exact ⟨.waitMsgIdL, rfl, by decide⟩
    · exact ⟨.waitMsgIdH, rfl, by decide⟩
    · exact ⟨.waitSrcId, rfl, by decide⟩
    · exact ⟨.waitDstId, rfl, by decide⟩
    · exact ⟨.waitChecksumL, rfl, by decide⟩
  obtain ⟨hparsed, herrors⟩ := exec_arm_counters harm hlast h
  obtain ⟨hcfg, hpending⟩ := exec_cfg_pending h
  exact ⟨exec_arm_rem harm hrem h, hparsed, herrors, hcfg, hpending, fun _ => exec_byteAt_of_ne h⟩

/-- A verdict leaves the bytes of the buffer. -/
theorem byteAt_verdict (valid : Bool) (s : State) (k : Nat) : byteAt (s.verdict valid) k = byteAt s k :=
  byteAt_congr (State.verdict_cfg ..) (State.verdict_buf ..) k

/-- Settles O41: the arm answers a verdict on the stored byte, which counts in the counter its response names. -/
theorem verdictArmFrame : Obligations.VerdictArmFrame := by
  intro s t b h
  obtain ⟨valid, rfl⟩ := exec_waitChecksumH_next h
  obtain ⟨hcfg, hpending⟩ := exec_cfg_pending h
  refine ⟨State.verdict_rem .., hcfg, hpending, State.verdict_cur .., fun k hk => ?_, ?_⟩
  · exact (byteAt_verdict valid _ k).trans (byteAt_stored_of_ne hk)
  · rcases verdict_counts (stored b s) valid with ⟨hresp, -, herrors⟩ | ⟨hresp, -, hparsed⟩ <;> rw [hresp]
    · exact ⟨fun _ => herrors, nofun⟩
    · exact ⟨nofun, fun _ => hparsed⟩

end Sys2Proof.Machine
end

section
/-! The invariant of 41_parse_byte: it holds after construction, every step keeps it (R76), and no step faults under it (R77). -/

namespace Sys2Proof.Machine

/-- Settles O44: construction accepts only configurations R7 and R8 allow, and answers their power-on state. -/
theorem constructionMeetsInvariant : Obligations.ConstructionMeetsInvariant := by
  intro c s h
  obtain ⟨hvalid, rfl⟩ := construct_next h
  exact framerInv_powerOn hvalid

/-- Settles O45: every instruction keeps the ports, and leads from a row of R76 to a row of R76. -/
theorem everyStepKeepsInvariant : Obligations.EveryStepKeepsInvariant := fun _ _ => step_framerInv

theorem FramerInv.cur_le {s : State} (hs : FramerInv s) : s.cur ≤ s.cfg.capacity := by
  obtain ⟨hports, p, -, hrow⟩ := framerInv_iff.mp hs
  by_cases hstart : p = .waitStart
  · subst hstart
    exact hrow
  · exact (hrow.cur_lt hstart hports.ten_le).le

/-- Under the invariant no command faults: a byte completes (R75), and no other command can. -/
theorem FramerInv.exec_ne_fault {i : Instr} {s : State} (hs : FramerInv s) (hi : i.armState = none) (f : Fault) :
    exec i s ≠ .fault f := by
  cases i
  case parseByte b =>
    obtain ⟨hports, p, hst, hrow⟩ := framerInv_iff.mp hs
    obtain ⟨t, ht, -⟩ := hrow.exists_exec_parseByte hst hports b
    rw [ht]
    nofun
  case readBuf addr =>
    rcases Nat.lt_or_ge addr.toNat s.cfg.capacity with hlt | hge
    · rw [exec_readBuf_of_lt hlt]
      nofun
    · rw [exec_readBuf_of_ge hge]
      nofun
  case reset | readParsed | readErrors => nofun
  all_goals cases hi

/-- Settles O47: the row of `st` bounds `cur`, and a step that faults would run a command that does. -/
theorem noStepFaultsUnderInvariant : Obligations.NoStepFaultsUnderInvariant := by
  refine fun s hs => ⟨FramerInv.cur_le hs, fun f h => ?_⟩
  obtain ⟨w, ws, i, -, hdecode, hi⟩ := step_fault_cases h
  have hready : FramerInv (s.setPending ws) := hs
  exact FramerInv.exec_ne_fault hready (decode_armState hdecode) f hi

end Sys2Proof.Machine
end

section
/-! The held frame (R83): the last byte leaves the frame in the buffer, and a command keeps it until `WAIT_LENGTH_L` takes a
byte. -/

namespace Sys2Proof.Machine

/-- The states in which a frame can be held, and where the next byte goes (R83). -/
def KeepsHeld (s : State) : Prop :=
  s.st = ParseState.waitStart.code ∨ s.st = ParseState.waitHeader.code ∧ s.cur = 1 ∨
    s.st = ParseState.waitLengthL.code ∧ s.cur = 2

/-- A frame stays held where the bytes stay and the next state can hold it. -/
theorem FrameHeld.of_byteAt {f : List Byte} {s t : State} (h : FrameHeld f s) (hbytes : ∀ k, byteAt t k = byteAt s k)
    (hst : KeepsHeld t) : FrameHeld f t := by
  obtain ⟨hstarts, hB, hR, -⟩ := h
  exact ⟨fun k hk => (hbytes k).trans (hstarts k hk), hB, hR, hst⟩

theorem FrameHeld.magic {f : List Byte} {s : State} (h : FrameHeld f s) : MagicHeld s := by
  obtain ⟨hstarts, hB, hR, -⟩ := h
  exact ⟨hstarts.byteAt_of_getElem? hB, hstarts.byteAt_of_getElem? hR⟩

/-- Storing the byte that stands at `cur` already leaves every byte. -/
theorem byteAt_stored_of_eq {s : State} {b : Byte} (hwf : Memory.wf s.cfg.bufInit s.buf = true)
    (hsame : byteAt s s.cur = b) (k : Nat) : byteAt (stored b s) k = byteAt s k := by
  rw [byteAt_stored hwf]
  split
  case isTrue hk => rw [hk, hsame]
  case isFalse => rfl

/-- A byte taken in frame search stores at most the magic that stands there already (R62, R63). -/
theorem FrameHeld.parseByte {f : List Byte} {s t : State} {b : Byte} (h : FrameHeld f s)
    (hwf : Memory.wf s.cfg.bufInit s.buf = true) (hst : s.st ≠ ParseState.waitLengthL.code)
    (hexec : exec (.parseByte b) s = .next t) : FrameHeld f t := by
  obtain ⟨hB, hR⟩ := h.magic
  obtain ⟨-, -, -, hstart | ⟨hheader, hcur⟩ | ⟨hlength, -⟩⟩ := id h
  · by_cases hb : b = magicB
    · rw [exec_parseByte_of_st (p := .waitStart) hstart rfl] at hexec
      obtain ⟨-, hexec⟩ := inArm_next_iff.mp hexec
      obtain ⟨-, ⟨⟩⟩ := andThen_store_next_iff.mp ((if_pos hb).symm.trans hexec)
      exact h.of_byteAt (byteAt_stored_of_eq (s := s.setCur 0) hwf (hB.trans hb.symm)) (.inr (.inl ⟨rfl, rfl⟩))
    · obtain rfl := Host.Outcome.next.inj ((exec_parseByte_of_ignored hstart hb).symm.trans hexec)
      exact h.of_byteAt (fun _ => rfl) (.inl rfl)
  · by_cases hb : b = magicR
    · rw [exec_parseByte_of_st (p := .waitHeader) hheader rfl] at hexec
      obtain rfl := exec_arm_next_of_accepts (p := .waitHeader) rfl (if_pos hb) hexec
      exact h.of_byteAt (byteAt_stored_of_eq hwf (by rw [hcur, hR, hb])) (.inr (.inr ⟨rfl, congrArg (· + 1) hcur⟩))
    · obtain rfl := Host.Outcome.next.inj ((exec_parseByte_of_mismatch hheader hb).symm.trans hexec)
      exact h.of_byteAt (fun _ => rfl) (.inl rfl)
  · exact absurd hlength hst

/-- A command row keeps a held frame, unless it takes a byte in `WAIT_LENGTH_L` (R83). -/
theorem FrameHeld.exec {f : List Byte} {s t : State} {i : Instr} (h : FrameHeld f s)
    (hwf : Memory.wf s.cfg.bufInit s.buf = true) (hi : i.armState = none)
    (hkeeps : s.st = ParseState.waitLengthL.code → ∀ b, i ≠ .parseByte b) (hexec : exec i s = .next t) : FrameHeld f t := by
  have ⟨_, _, _, hst⟩ := h
  rcases exec_next_cases hexec with ⟨v, rfl⟩ | rfl | ⟨p, b, -, rfl | harm, -⟩
  · exact h.of_byteAt (fun _ => rfl) hst
  · exact h.of_byteAt (fun _ => rfl) (.inl rfl)
  · exact h.parseByte hwf (fun hlength => hkeeps hlength b rfl) hexec
  · cases p <;> cases harm <;> cases hi

/-- Once its last byte is taken the frame in progress is held, whatever the verdict (R72, R83). -/
theorem FramerInv.frameHeld {s t : State} {b : Byte} (hs : FramerInv s) (hst : s.st = ParseState.waitChecksumH.code)
    (h : exec (.parseByte b) s = .next t) :
    FrameHeld ((List.range (10 + (declaredLen s).toNat)).map
      fun k => if k = 9 + (declaredLen s).toNat then b else byteAt s k) t := by
  obtain ⟨hports, -, -, -, -, -, hrow⟩ := hs
  obtain ⟨-, -, -, -, hwf, -⟩ := hports
  obtain ⟨hcur, -, -, hB, hR⟩ := hrow hst
  rw [exec_parseByte_of_st (p := .waitChecksumH) hst rfl] at h
  obtain ⟨valid, rfl⟩ := exec_waitChecksumH_next h
  refine ⟨fun k hk => ?_, ?_, ?_, .inl (State.verdict_st ..)⟩
  · rw [byteAt_verdict, byteAt_stored hwf, hcur]
    simp
  · rw [List.getElem?_map, List.getElem?_range (by omega), Option.map_some, if_neg (by omega), hB]
  · rw [List.getElem?_map, List.getElem?_range (by omega), Option.map_some, if_neg (by omega), hR]

/-- Settles O56: the last byte completes the frame in the buffer, and each command row keeps a held one. -/
theorem heldFrameSurvives : Obligations.HeldFrameSurvives := by
  refine ⟨fun s t b hs hst h _ => FramerInv.frameHeld hs hst h, fun f s t hwf hheld h hkeeps => ?_⟩
  rcases step_next_cases h with ⟨-, rfl⟩ | ⟨w, ws, i, hpending, hdecode, hi⟩
  · exact hheld
  · have hready : FrameHeld f (s.setPending ws) := hheld
    exact hready.exec hwf (decode_armState hdecode)
      (fun hlength b hbyte => hkeeps hlength w ws hpending b (hbyte ▸ hdecode)) hi

end Sys2Proof.Machine
end

section
/-! The readout commands (R80 to R82): each responds with what it reads and leaves every other part of the state. -/

namespace Sys2Proof.Machine

/-- Settles O29: `MemRead` answers the byte below `C` and refuses from `C` on; the word is the row's encoding. -/
theorem readBufCommand : Obligations.ReadBufCommand := by
  refine fun s addr => ⟨exec_readBuf_of_lt, exec_readBuf_of_ge, ?_⟩
  rw [readBuf_word]
  exact decode_encode rfl

/-- `READ_PARSED` responds with the success counter (R81). -/
theorem exec_readParsed (s : State) : exec .readParsed s = .next (s.respond s.parsed) := rfl

/-- `READ_ERRORS` responds with the checksum-failure counter (R82). -/
theorem exec_readErrors (s : State) : exec .readErrors s = .next (s.respond s.errors) := rfl

/-- The word of `READ_PARSED` (R81). -/
theorem encode_readParsed : encode .readParsed = 0x40000000#32 := rfl

/-- The word of `READ_ERRORS` (R82). -/
theorem encode_readErrors : encode .readErrors = 0x50000000#32 := rfl

/-- Settles O30: each read answers by `respond`, and a word decodes to a command just when it is its encoding. -/
theorem readCounterCommands : Obligations.ReadCounterCommands := by
  refine fun s => ⟨exec_readParsed s, exec_readErrors s, fun w => ?_, fun w => ?_⟩
  · rw [← encode_readParsed]
    exact decode_eq_ok_iff_eq_encode rfl
  · rw [← encode_readErrors]
    exact decode_eq_ok_iff_eq_encode rfl

end Sys2Proof.Machine
end

section
/-! The exceptions (60_exceptions): no run from construction faults (R89), a resync is silent (R86), and between commands the
block holds its state (R100). -/

namespace Sys2Proof.Machine

/-- Settles O9: a step with nothing pending answers the state it is given. -/
theorem stepWithoutCommandHoldsState : Obligations.StepWithoutCommandHoldsState := by
  intro s hpending
  rw [step, hpending]

/-- Where every step keeps a property under which no step faults, no run from it faults. -/
theorem run_ne_fault {P : State → Prop} (hstep : ∀ s t, P s → step s = .next t → P t)
    (hsafe : ∀ s f, P s → step s ≠ .fault f) {n : Nat} {s : State} (hs : P s) (f : Fault) :
    Host.Core.run core n s ≠ .fault f := by
  induction n generalizing s with
  | zero => nofun
  | succ n ih =>
    rcases hfirst : step s with t | g | r
    · rw [run_next hfirst]
      exact ih (hstep s t hs hfirst)
    · exact absurd hfirst (hsafe s g hs)
    · rw [run_refused hfirst]
      nofun

/-- Settles O51: construction leads into the invariant (R76) whatever words are issued, and no step faults under it (R77). -/
theorem noRunFaults : Obligations.NoRunFaults := by
  intro c s ws n f hconstruct
  have hstart : FramerInv { s with pending := ws } := constructionMeetsInvariant c s hconstruct
  have hsafe : ∀ s f, FramerInv s → step s ≠ .fault f := by
    intro s f hs
    obtain ⟨-, hnoFault⟩ := noStepFaultsUnderInvariant s hs
    exact hnoFault f
  exact run_ne_fault everyStepKeepsInvariant hsafe hstart f

/-- A length byte that makes the length oversized is stored and leads back to frame search (R65, R86). -/
theorem exec_parseByte_of_oversized {s : State} {b : Byte} (hst : s.st = ParseState.waitLengthH.code)
    (hroom : s.cur < s.cfg.capacity) (hlarge : s.cfg.capacity < (lengthHigh s.rem b).toNat + 10) :
    exec (.parseByte b) s = .next (((stored b s).setRem (lengthHigh s.rem b)).advance .waitStart) := by
  have hback : afterLength s.cfg.capacity (lengthHigh s.rem b) = .waitStart :=
    (afterLength_eq ..).trans (if_neg (Nat.not_le.mpr hlarge))
  exact exec_parseByte_of_accepts hst hroom (congrArg (fun q => some (q, lengthHigh s.rem b)) hback)

/-- Settles O54: a mismatch stores nothing; an oversized length stores its byte at `cur`, which R76 has at 3. -/
theorem resyncIsSilent : Obligations.ResyncIsSilent := by
  intro s b hs hcause
  obtain ⟨hports, -, ⟨-, hheader, -, hlength⟩, -⟩ := hs
  rcases hcause with ⟨hst, hb⟩ | ⟨hst, hlarge⟩
  · obtain ⟨hcur, -⟩ := hheader hst
    exact ⟨_, exec_parseByte_of_mismatch hst hb, rfl, rfl, rfl, rfl, hcur.trans (if_pos hst).symm, fun _ _ => rfl⟩
  · obtain ⟨hcur, -⟩ := hlength hst
    have hcap := hports.ten_le
    have hne : s.st ≠ 2#4 := by
      rw [hst]
      decide
    have hoversized : s.cfg.capacity < (lengthHigh s.rem b).toNat + 10 := by
      rw [toNat_lengthHigh]
      omega
    refine ⟨_, exec_parseByte_of_oversized hst (by omega) hoversized, rfl, rfl, rfl, rfl, ?_, fun k hk => ?_⟩
    · rw [if_neg hne, State.advance_cur, State.setRem_cur, stored_cur, hcur]
    · have hother : k ≠ s.cur := hcur ▸ hk.resolve_right hne
      exact byteAt_stored_of_ne hother

end Sys2Proof.Machine
end

section
/-! Construction and the host's commands (70_reset_and_hazards): what construction leaves (R101), that every command a host may
send is answered (R112), and what a stray first magic byte does to the frame after it (R63, R108). -/

namespace Sys2Proof.Machine

/-- A configuration R7 and R8 allow is constructed. -/
theorem construct_of_configValid {c : Config} (h : configValid c = true) : construct c = .next (State.powerOn c) := by
  obtain ⟨hlow, hhigh, hwidth⟩ := configValid_iff.mp h
  rw [construct_of_capacity_inside (by omega), if_neg (by omega)]

/-- After construction every byte listed in `BUF_INIT` stands in the buffer (R26). -/
theorem bufferStarts_powerOn (c : Config) : BufferStarts c.bufInit (State.powerOn c) := fun _ _ =>
  (List.getElem_eq_getD 0#8).symm

/-- Settles O10: the configuration is valid, and the power-on state has no cell besides `BUF_INIT`. -/
theorem constructionValues : Obligations.ConstructionValues := fun c hlow hhigh hwidth =>
  ⟨State.powerOn c, construct_of_configValid (configValid_iff.mpr ⟨hlow, hhigh, hwidth⟩), rfl, rfl, rfl, rfl, rfl, rfl,
    bufferStarts_powerOn c⟩

/-- Settles O12: `State.reset` is the power-on state of a valid configuration. -/
theorem resetStateIsConstructed : Obligations.ResetStateIsConstructed := construct_of_configValid (by decide)

/-- A host sends command rows only (R112). -/
theorem armState_of_hostMaySend {s : State} {i : Instr} (h : hostMaySend s i = true) : i.armState = none := by
  cases i
  case parseByte | reset | readBuf | readParsed | readErrors => rfl
  all_goals cases h

/-- Under the invariant every command a host may send completes: a byte by the table of R75, a buffer read because it is below
`C`, and the others in every state. -/
theorem FramerInv.exists_exec {s : State} {i : Instr} (hs : FramerInv s) (hsend : hostMaySend s i = true) :
    ∃ t, exec i s = .next t := by
  cases i
  case parseByte b =>
    obtain ⟨hports, p, hst, hrow⟩ := framerInv_iff.mp hs
    obtain ⟨t, ht, -⟩ := hrow.exists_exec_parseByte hst hports b
    exact ⟨t, ht⟩
  case readBuf addr => exact ⟨_, exec_readBuf_of_lt (of_decide_eq_true hsend)⟩
  case reset | readParsed | readErrors => exact ⟨_, rfl⟩
  all_goals cases hsend

/-- Settles O52: the step runs the command it takes, which completes, and every command that completes responds. -/
theorem allowedCommandsAreAnswered : Obligations.AllowedCommandsAreAnswered := by
  intro s i ws hs hsend hpending
  have hready : FramerInv (s.setPending ws) := hs
  obtain ⟨t, ht⟩ := hready.exists_exec hsend
  obtain ⟨-, htaken⟩ := exec_cfg_pending ht
  obtain ⟨r, hresp, -⟩ := exec_resp ht
  have hstep := step_of_decode hpending (decode_encode (armState_of_hostMaySend hsend))
  refine ⟨t, hstep.trans ht, htaken, ?_⟩
  rw [hresp]
  nofun

/-- In the state `p`, with the configuration and the counters of `base`. -/
structure Uncounted (base : State) (p : ParseState) (s : State) : Prop where
  st : s.st = p.code
  cfg : s.cfg = base.cfg
  parsed : s.parsed = base.parsed
  errors : s.errors = base.errors

theorem Uncounted.setPending {base s : State} {p : ParseState} (h : Uncounted base p s) (ws : List Word) :
    Uncounted base p (s.setPending ws) :=
  ⟨h.st, h.cfg, h.parsed, h.errors⟩

section
variable {base : State}

/-- Magic byte 1 starts a frame, whatever the buffer holds (R62). -/
theorem feeds_magicB (hroom : 0 < base.cfg.capacity) :
    Feeds (Uncounted base .waitStart) [magicB] [2] (Uncounted base .waitHeader) :=
  Feeds.byte (fun _ ws hs => hs.setPending ws) fun _ hs =>
    ⟨_, exec_parseByte_of_begin hs.st (hs.cfg ▸ hroom) rfl, rfl, rfl, hs.cfg, hs.parsed, hs.errors⟩

/-- Where magic byte 2 is due, any other byte is discarded, a new magic byte 1 with it (R63). -/
theorem feeds_mismatch {b : Byte} (hb : b ≠ magicR) :
    Feeds (Uncounted base .waitHeader) [b] [1] (Uncounted base .waitStart) :=
  Feeds.byte (fun _ ws hs => hs.setPending ws) fun _ hs =>
    ⟨_, exec_parseByte_of_mismatch hs.st hb, rfl, rfl, hs.cfg, hs.parsed, hs.errors⟩

/-- In frame search, any byte but magic byte 1 is ignored (R62). -/
theorem feeds_ignored {b : Byte} (hb : b ≠ magicB) :
    Feeds (Uncounted base .waitStart) [b] [1] (Uncounted base .waitStart) :=
  Feeds.byte (fun _ ws hs => hs.setPending ws) fun _ hs =>
    ⟨_, exec_parseByte_of_ignored hs.st hb, rfl, rfl, hs.cfg, hs.parsed, hs.errors⟩

end

/-- Settles O57: the stray byte starts a frame, the frame's own first byte is discarded as its mismatch, and the second is ignored. -/
theorem strayMagicLosesFrame : Obligations.StrayMagicLosesFrame := by
  intro s ws hst hcap hpending
  have hlost : Feeds (Uncounted s .waitStart) [magicB, magicB, magicR] [2, 1, 1] (Uncounted s .waitStart) :=
    ((feeds_magicB (by omega)).append (feeds_mismatch (by decide))).append (feeds_ignored (by decide))
  obtain ⟨t, hrun, htaken, ht⟩ := hlost s ws ⟨hst, rfl, rfl, rfl⟩ hpending
  exact ⟨t, hrun, ht.st, htaken, ht.parsed, ht.errors⟩

end Sys2Proof.Machine
end
